-- ==== Sys2Proof/Word.lean ====
section
/-! DEFINITION. The word types of the block: a byte, a 16-bit half word, and the words of the four ports
(spec/20_memory.md R51; spec/30_encoding.md R80, R83, R84). -/

namespace Sys2Proof

/-- A byte is 8 bits (R51). -/
abbrev Byte := BitVec 8

/-- The 16-bit quantities: CRC values (`CRC_W` = 16), register addresses, register words, stream beats (R8, R79). -/
abbrev Half := BitVec 16

/-- The number of a service: `SVC_W` = 16 bits, opaque to the block (R8, R50). -/
abbrev ServiceId := BitVec 16

/-- The number of a characteristic: `CHR_W` = 16 bits, opaque to the block (R8, R50). -/
abbrev CharId := BitVec 16

/-- A peripheral id: `PID_W` = 32 bits, opaque to the block (R8, R132). -/
abbrev PeripheralId := BitVec 32

/-- `CW`, the 48-bit command word of the command port (R79, R80). -/
abbrev CommandWord := BitVec 48

/-- `EW`, the 16-bit event word of the event port (R79, R83). -/
abbrev EventWord := BitVec 16

/-- `TW`, the 48-bit request word of the request port (R79, R84). -/
abbrev RequestWord := BitVec 48

end Sys2Proof
end

