-- ==== Sys2Proof/Config.lean ====
section
/-! DEFINITION. What is fixed when the block is instantiated (spec/00_scope.md R7, R8): the named constants with the
values the spec gives, the record of the parameters it leaves OPEN, and the two constants without a body that stand
for what nothing in the spec fixes: the parameters of this instance and the order of simultaneously pending inputs. -/

namespace Sys2Proof

/-- `FAMILY`: the two supported peripheral families (R8, R145). -/
inductive Family where
  /-- Family A: the addressed register protocol. -/
  | a
  /-- Family B: the raw protocol. -/
  | b
  deriving DecidableEq, Repr, Inhabited

/-- `BUSY_ON_DISCONNECT`: what a teardown does to the busy gate (R8, R130; spec/90_conflicts.md C3). -/
inductive BusyOnDisconnect where
  /-- The spec's default: a running busy timer runs to its expiry. -/
  | runToExpiry
  /-- The other coherent reading: the gate is opened and its timer cancelled at once. -/
  | cancelAndClear
  deriving DecidableEq, Repr, Inhabited

/-- The CRC ROM's contents: one 16-bit entry for every 8-bit index, `TABLE_N` = 256 entries (R8, R29). -/
abbrev CrcTable := Byte → Half

namespace Config

/-- `HEADER` (R8, R70). -/
def header : List Byte := [0xFF, 0xFF, 0xFD, 0x00]

/-- `INST_NONE` (R8, R74): named, never emitted. -/
def instNone : Byte := 0

/-- `INST_READ` (R8, R74): named, never emitted. -/
def instRead : Byte := 2

/-- `INST_WRITE` (R8, R74): byte 7 of every family-A frame. -/
def instWrite : Byte := 3

/-- `TICK_MS` (R8, R14). -/
def tickMs : Nat := 1

/-- `BUSY_TIMEOUT_MS` (R8, R218). -/
def busyTimeoutMs : Nat := 5000

/-- `WD_TIMEOUT_MS` (R8, R218). -/
def wdTimeoutMs : Family → Nat
  | .a => 45000
  | .b => 2500

/-- `BUSY_TICKS` = `BUSY_TIMEOUT_MS / TICK_MS` (R8). -/
def busyTicks : Nat := busyTimeoutMs / tickMs

/-- `WD_TICKS` = `WD_TIMEOUT_MS / TICK_MS` (R8). -/
def wdTicks (f : Family) : Nat := wdTimeoutMs f / tickMs

/-- `REASON_DATA_STOPPED` (R8, R84). -/
def reasonDataStopped : Byte := 0x01

/-- `SEND_MAX` (R8). -/
def sendMax : Nat := 255

/-- `MSG_MAX` (R8). -/
def msgMax : Nat := 255

/-- `CRC_LEN_MAX` (R8). -/
def crcLenMax : Nat := 65535

/-- `RAW_LEN_MAX` (R8). -/
def rawLenMax : Nat := 65535

end Config

/-- The parameters R8 leaves OPEN (and `BUSY_ON_DISCONNECT`, which has a default): the `cfg` of the step model R11.
They are no part of the state (R39). -/
structure Params where
  /-- `FAMILY`. -/
  family : Family
  /-- `CRC_TABLE`, written `T`. -/
  crcTable : CrcTable
  /-- `WRITE_FRAMING`. -/
  writeFraming : Bool
  /-- `RX_SERVICE`. -/
  rxService : ServiceId
  /-- `RX_CHAR`. -/
  rxChar : CharId
  /-- `SCAN_FILTER`, opaque to the block (log entry 27). -/
  scanFilter : List Byte
  /-- `WD_REASON`, the fixed reason string, opaque to the block. -/
  wdReason : List Byte
  /-- `MOVING_IDX` (family B only). -/
  movingIdx : Nat
  /-- `BUSY_ON_DISCONNECT` (log entry 3). -/
  busyOnDisconnect : BusyOnDisconnect
  deriving Inhabited

/-- The parameters of this instance. No body: a model "takes the parameters marked OPEN as arguments and must not give
them a value of its own" (R7), so a claim about the machine holds for every value of them (log entry 2). -/
opaque Config.params : Params

/-- The order in which simultaneously pending inputs are handled. No body: the spec leaves that order OPEN (R63, R187),
so a claim about the machine holds for every order (log entry 4). -/
opaque Config.arbiter : Nat → Nat

end Sys2Proof
end

