-- ==== Sys2Proof/Machine/Operands.lean ====
section
/-! DEFINITION. Byte extraction, the two byte orders and the two's-complement reading of a signed value
(spec/00_scope.md R9, R12; spec/20_memory.md R52, R53; spec/41_encoder.md R116). -/

namespace Sys2Proof.Machine

/-- `lo8(v) = v & 0xFF` (R9). -/
def lo8 (v : Half) : Byte := v.extractLsb' 0 8

/-- `hi8(v) = (v >> 8) & 0xFF` (R9). -/
def hi8 (v : Half) : Byte := v.extractLsb' 8 8

/-- The 16-bit value whose high byte is `hi` and whose low byte is `lo`. -/
def half (hi lo : Byte) : Half := hi ++ lo

/-- The byte order of every multi-byte field of family A: low byte at the lower offset (R52). -/
def le16 (v : Half) : List Byte := [lo8 v, hi8 v]

/-- The byte order of family B: high byte at the lower offset (R53). -/
def be16 (v : Half) : List Byte := [hi8 v, lo8 v]

/-- The range of an `i16` (R9). -/
def isI16 (v : Int) : Bool := decide (-32768 ≤ v ∧ v ≤ 32767)

/-- `tc16(v) = v mod 65536` (R12, R116; log entry 15). -/
def tc16 (v : Int) : Half := BitVec.ofInt 16 v

/-- The `i16` that a 16-bit beat or byte pair stands for: the inverse of `tc16` on the `i16` range. -/
def ofTc16 (w : Half) : Int := w.toInt

/-- A byte carried in a 16-bit beat: `cdata[7:0]`, with `cdata[15:8]` = 0 (R80). -/
def byteBeat (b : Byte) : Half := half 0 b

end Sys2Proof.Machine
end

