-- ==== Sys2Proof/Machine/Crc.lean ====
section
/-! DEFINITION. The CRC Engine as a pure function of a table (spec/40_crc.md R100 to R106). The machine instantiates the
table with the OPEN parameter `CRC_TABLE`; a claim about a concrete CRC value names the table it assumes (R106). -/

namespace Sys2Proof.Machine

/-- `idx = ((acc >> 8) xor b) & 0xFF` (R101): the one computed address in the block (R152). -/
def crcIndex (acc : Half) (b : Byte) : Byte := hi8 acc ^^^ b

/-- `acc' = ((acc << 8) & 0xFFFF) xor T[idx]` (R101). The shift of a 16-bit vector drops the old high byte, which is
the mask of R102. -/
def crcStep (T : CrcTable) (acc : Half) (b : Byte) : Half := (acc <<< 8) ^^^ T (crcIndex acc b)

/-- `computeCRC(seed, bytes) = fold(crc_step, seed, bytes)` (R100). The accumulator is a local value, never state
(R30). -/
def computeCrc (T : CrcTable) (seed : Half) (bytes : List Byte) : Half := bytes.foldl (crcStep T) seed

end Sys2Proof.Machine
end

