-- ==== Sys2Proof/Machine/Frame.lean ====
section
/-! DEFINITION. The Packet Encoder as pure functions: the family-A frame and the family-B raw payload
(spec/30_encoding.md R70 to R78; spec/41_encoder.md R110 to R117). -/

namespace Sys2Proof.Machine

/-- The length field: the payload length plus 5 (R73). -/
def lengthField (payloadLength : Nat) : Half := BitVec.ofNat 16 (payloadLength + 5)

/-- `body` of R110: everything the CRC covers, header to payload (R75). -/
def frameBody (deviceId : Byte) (address : Half) (payload : List Byte) : List Byte :=
  Config.header ++ [deviceId] ++ le16 (lengthField payload.length) ++ [Config.instWrite] ++ le16 address ++ payload

/-- `frame_a(deviceId, address, payload)` (R110): the body, then its CRC with seed 0, low byte first. -/
def frameA (T : CrcTable) (deviceId : Byte) (address : Half) (payload : List Byte) : List Byte :=
  frameBody deviceId address payload ++ le16 (computeCrc T 0 (frameBody deviceId address payload))

/-- The payload of a byte write: one byte (R71, R111). -/
def byteWriteFrame (T : CrcTable) (deviceId : Byte) (address : Half) (value : Byte) : List Byte :=
  frameA T deviceId address [value]

/-- The payload of a word write: two bytes, little-endian (R72, R112). -/
def wordWriteFrame (T : CrcTable) (deviceId : Byte) (address : Half) (value : Half) : List Byte :=
  frameA T deviceId address (le16 value)

/-- `encodeRawCommand(values)` (R115): each value as two bytes, high byte first, nothing else. -/
def rawPayload (values : List Int) : List Byte := values.flatMap fun v => be16 (tc16 v)

end Sys2Proof.Machine
end

