-- ==== Sys2Proof/Syntax.lean ====
section
/-! DEFINITION. The rows of spec/opcode_table.json as one inductive, and the words that stand at the ports before they
are decoded (spec/30_encoding.md R79 to R91). -/

namespace Sys2Proof

/-- One constructor per row of spec/opcode_table.json: ten commands, four events, six transport requests, three wire
frames and three wire instruction values (R91). -/
inductive Instr where
  -- commands, issued by the host on the command port (R81)
  /-- `CRC_COMPUTE seed, bytes` (R100). -/
  | crcCompute (seed : Half) (bytes : List Byte)
  /-- `ENC_BYTE_WRITE deviceId, address, value` (R111). -/
  | encByteWrite (deviceId : Byte) (address : Half) (value : Byte)
  /-- `ENC_WORD_WRITE deviceId, address, value` (R112). -/
  | encWordWrite (deviceId : Byte) (address : Half) (value : Half)
  /-- `ENC_RAW values`, a sequence of `i16` (R115). -/
  | encRaw (values : List Int)
  /-- `SCAN` (R131). -/
  | scan
  /-- `CONNECT peripheralId` (R132). -/
  | connect (peripheralId : PeripheralId)
  /-- `DISCONNECT` (R133). -/
  | disconnect
  /-- `SRESET`, the software reset of the session (R134). -/
  | sreset
  /-- `ISCONNECTED` (R135). -/
  | isConnected
  /-- `SEND service, characteristic, payload` (R136). -/
  | send (service : ServiceId) (characteristic : CharId) (payload : List Byte)
  -- events, delivered by the transport on the event port, and the tick pulse (R83)
  /-- `EV_CONNECT` (R137). -/
  | evConnect
  /-- `EV_WRITE_DONE` (R138). -/
  | evWriteDone
  /-- `EV_MESSAGE rawBytes` (R139). -/
  | evMessage (rawBytes : List Byte)
  /-- `EV_TICK`, one pulse of the tick input (R140, R141). -/
  | evTick
  -- transport requests, emitted by the block on the request port (R84)
  /-- `T_DISCOVER`. -/
  | tDiscover
  /-- `T_CONNECT peripheralId`. -/
  | tConnect (peripheralId : PeripheralId)
  /-- `T_WRITE framing, service, characteristic, payload`. -/
  | tWrite (framing : Bool) (service : ServiceId) (characteristic : CharId) (payload : List Byte)
  /-- `T_SUBSCRIBE service, characteristic`. -/
  | tSubscribe (service : ServiceId) (characteristic : CharId)
  /-- `T_TEARDOWN`. -/
  | tTeardown
  /-- `T_LINK_ERROR reason`. -/
  | tLinkError (reason : Byte)
  -- wire frames (R71, R72, R78). The CRC field is no operand: it is the CRC of the bytes before it (R75)
  /-- `FRAME_A_BYTE`, the 13-byte frame of a byte write. -/
  | frameAByte (deviceId : Byte) (address : Half) (value : Byte)
  /-- `FRAME_A_WORD`, the 14-byte frame of a word write. -/
  | frameAWord (deviceId : Byte) (address : Half) (value : Half)
  /-- `FRAME_B_RAW`, the raw payload of `n` values, `2n` bytes. -/
  | frameBRaw (values : List Int)
  -- wire instruction values (R74)
  /-- `INST_NONE` = 0. -/
  | instNone
  /-- `INST_READ` = 2. -/
  | instRead
  /-- `INST_WRITE` = 3. -/
  | instWrite
  deriving DecidableEq, Repr

/-- The rows that are inputs of the block (R11): the ten commands and the four events. The others are words of its
output layers. -/
def Instr.isInput : Instr → Bool
  | .crcCompute _ _ => true
  | .encByteWrite _ _ _ => true
  | .encWordWrite _ _ _ => true
  | .encRaw _ => true
  | .scan => true
  | .connect _ => true
  | .disconnect => true
  | .sreset => true
  | .isConnected => true
  | .send _ _ _ => true
  | .evConnect => true
  | .evWriteDone => true
  | .evMessage _ => true
  | .evTick => true
  | .tDiscover => false
  | .tConnect _ => false
  | .tWrite _ _ _ _ => false
  | .tSubscribe _ _ => false
  | .tTeardown => false
  | .tLinkError _ => false
  | .frameAByte _ _ _ => false
  | .frameAWord _ _ _ => false
  | .frameBRaw _ => false
  | .instNone => false
  | .instRead => false
  | .instWrite => false

/-- A word of one of the block's output layers, with its stream. -/
inductive OutWord where
  /-- A request word `TW` and its byte stream `tdata` (R84). -/
  | request (tw : RequestWord) (tdata : List Byte)
  /-- The bytes of a family-A frame, offset 0 first (R70). -/
  | frameA (bytes : List Byte)
  /-- The bytes of a family-B payload, offset 0 first (R78). -/
  | frameB (bytes : List Byte)
  /-- One wire instruction value (R74). -/
  | instruction (value : Byte)
  deriving DecidableEq, Repr

/-- What stands at a port before it is decoded: one word and the stream that belongs to it (R79). -/
inductive PortWord where
  /-- A command word `CW` and its beats `cdata` (R80, R82). -/
  | command (cw : CommandWord) (cdata : List Half)
  /-- An event word `EW` and its bytes `edata` (R83). -/
  | event (ew : EventWord) (edata : List Byte)
  /-- One pulse of `tick`, which has no word (R83). -/
  | tick
  /-- A word of an output layer. -/
  | out (w : OutWord)
  deriving DecidableEq, Repr

end Sys2Proof
end

