-- ==== Sys2Proof/WellFormed.lean ====
section
/-! DEFINITION. Which terms of `Instr` a port can spell: the length bounds of spec/00_scope.md R8 and the range of an
`i16` (R9). The meanings accept more (log entry 17). -/

namespace Sys2Proof

/-- A sequence of `i16` no longer than `RAW_LEN_MAX`. -/
def rawValuesOk (values : List Int) : Bool :=
  decide (values.length ≤ Config.rawLenMax) && values.all Machine.isI16

/-- The check: every length within its bound, every raw value an `i16`. The other operands are bit vectors of the
width of their field, so every value of theirs is legal (R87, R113). -/
def WellFormed : Instr → Bool
  | .crcCompute _ bytes => decide (bytes.length ≤ Config.crcLenMax)
  | .encByteWrite _ _ _ => true
  | .encWordWrite _ _ _ => true
  | .encRaw values => rawValuesOk values
  | .scan => true
  | .connect _ => true
  | .disconnect => true
  | .sreset => true
  | .isConnected => true
  | .send _ _ payload => decide (payload.length ≤ Config.sendMax)
  | .evConnect => true
  | .evWriteDone => true
  | .evMessage rawBytes => decide (rawBytes.length ≤ Config.msgMax)
  | .evTick => true
  | .tDiscover => true
  | .tConnect _ => true
  | .tWrite _ _ _ payload => decide (payload.length ≤ Config.sendMax)
  | .tSubscribe _ _ => true
  | .tTeardown => true
  | .tLinkError _ => true
  | .frameAByte _ _ _ => true
  | .frameAWord _ _ _ => true
  | .frameBRaw values => rawValuesOk values
  | .instNone => true
  | .instRead => true
  | .instWrite => true

end Sys2Proof
end

