-- ==== Sys2Proof/Decode.lean ====
section
/-! DEFINITION. The decoder of every port word, total and rejecting by name, and the encoder
(spec/30_encoding.md R70 to R87). -/

namespace Sys2Proof

open Machine

/-- Why a word is no instruction. The first six are R86's illegal command and event words; the rest say the same of
the words of the output layers. -/
inductive IllegalWord where
  /-- A reserved `op`: 0x0, 0x2, 0x3, 0x7, 0xE, 0xF (R86). -/
  | reservedOpcode
  /-- `CW[43:40]` is not 0 (R86). -/
  | commandReservedBits
  /-- A field the command's format requires to be 0 is not 0 (R86). -/
  | commandNonzeroField
  /-- A byte beat with `cdata[15:8]` not 0 (R82, R86). -/
  | wideByteBeat
  /-- The number of stream beats or bytes is not the number the word announces (R82, R83). -/
  | streamLength
  /-- A reserved event code: 0x0, 0x4 to 0xF (R86). -/
  | reservedEventCode
  /-- `EW[11:8]` is not 0 (R86). -/
  | eventReservedBits
  /-- `n` is not 0 in `EV_CONNECT` or `EV_WRITE_DONE` (R86). -/
  | eventCount
  /-- A request code that R84 does not list. -/
  | reservedRequestCode
  /-- A field R84 requires to be 0 is not 0. -/
  | requestNonzeroField
  /-- Bytes that do not have the fixed structure of a family-A frame (R70 to R74). -/
  | frameShape
  /-- A family-A frame whose last two bytes are not the CRC of the others (R75). -/
  | frameCrc
  /-- An odd number of bytes, or more than `RAW_LEN_MAX` values, in a family-B payload (R78). -/
  | rawShape
  /-- A byte that R74 gives no name as a wire instruction value. -/
  | unnamedWireInstruction
  deriving DecidableEq, Repr

/-! ## Command words -/

/-- The ten commands of the opcode map (R81). -/
inductive CommandOp where
  | crcCompute | encByteWrite | encWordWrite | encRaw | scan | connect | disconnect | sreset | isConnected | send
  deriving DecidableEq, Repr

/-- `op` (R81). -/
def CommandOp.code : CommandOp → BitVec 4
  | .crcCompute => 0x1
  | .encByteWrite => 0x4
  | .encWordWrite => 0x5
  | .encRaw => 0x6
  | .scan => 0x8
  | .connect => 0x9
  | .disconnect => 0xA
  | .sreset => 0xB
  | .isConnected => 0xC
  | .send => 0xD

/-- The command of an `op`; `none` for a reserved one (R81, R86). -/
def CommandOp.ofCode (op : BitVec 4) : Option CommandOp :=
  match op.toNat with
  | 0x1 => some .crcCompute
  | 0x4 => some .encByteWrite
  | 0x5 => some .encWordWrite
  | 0x6 => some .encRaw
  | 0x8 => some .scan
  | 0x9 => some .connect
  | 0xA => some .disconnect
  | 0xB => some .sreset
  | 0xC => some .isConnected
  | 0xD => some .send
  | _ => none

/-- `CW[47:44]` (R80). -/
def opOf (cw : CommandWord) : BitVec 4 := cw.extractLsb' 44 4

/-- How many beats a command word announces: `n` of the formats C, V and W, none for the others and for a reserved
`op` (R80, R82, R86). -/
def announcedBeats (cw : CommandWord) : Nat :=
  match CommandOp.ofCode (opOf cw) with
  | some .crcCompute => (cw.extractLsb' 0 16).toNat
  | some .encRaw => (cw.extractLsb' 0 16).toNat
  | some .send => (cw.extractLsb' 0 8).toNat
  | some _ => 0
  | none => 0

/-- A stream of `n` byte beats (formats C and W). -/
def byteStream (n : Nat) (beats : List Half) : Except IllegalWord (List Byte) :=
  if beats.length = n then
    if beats.all (fun b => hi8 b == 0) then .ok (beats.map lo8) else .error .wideByteBeat
  else .error .streamLength

/-- A stream of `n` beats of one `i16` each (format V). -/
def valueStream (n : Nat) (beats : List Half) : Except IllegalWord (List Int) :=
  if beats.length = n then .ok (beats.map ofTc16) else .error .streamLength

/-- Format N: the word has no operand and no stream. -/
def formatN (i : Instr) (cw : CommandWord) (beats : List Half) : Except IllegalWord Instr :=
  if cw.extractLsb' 0 40 = 0 then
    if beats = [] then .ok i else .error .streamLength
  else .error .commandNonzeroField

/-- The operands of a command by its format (R80), once `op` and `CW[43:40]` are known to be legal. -/
def decodeOperands : CommandOp → CommandWord → List Half → Except IllegalWord Instr
  | .crcCompute, cw, beats =>
    if cw.extractLsb' 32 8 = 0 then
      (byteStream (cw.extractLsb' 0 16).toNat beats).map (Instr.crcCompute (cw.extractLsb' 16 16))
    else .error .commandNonzeroField
  | .encByteWrite, cw, beats =>
    if cw.extractLsb' 8 8 = 0 then
      if beats = [] then .ok (.encByteWrite (cw.extractLsb' 32 8) (cw.extractLsb' 16 16) (cw.extractLsb' 0 8))
      else .error .streamLength
    else .error .commandNonzeroField
  | .encWordWrite, cw, beats =>
    if beats = [] then .ok (.encWordWrite (cw.extractLsb' 32 8) (cw.extractLsb' 16 16) (cw.extractLsb' 0 16))
    else .error .streamLength
  | .encRaw, cw, beats =>
    if cw.extractLsb' 16 24 = 0 then
      (valueStream (cw.extractLsb' 0 16).toNat beats).map Instr.encRaw
    else .error .commandNonzeroField
  | .scan, cw, beats => formatN .scan cw beats
  | .connect, cw, beats =>
    if cw.extractLsb' 32 8 = 0 then
      if beats = [] then .ok (.connect (cw.extractLsb' 0 32)) else .error .streamLength
    else .error .commandNonzeroField
  | .disconnect, cw, beats => formatN .disconnect cw beats
  | .sreset, cw, beats => formatN .sreset cw beats
  | .isConnected, cw, beats => formatN .isConnected cw beats
  | .send, cw, beats =>
    (byteStream (cw.extractLsb' 0 8).toNat beats).map (Instr.send (cw.extractLsb' 24 16) (cw.extractLsb' 8 16))

/-- The command port's decoder (R80, R81, R86). -/
def decodeCommand (cw : CommandWord) (beats : List Half) : Except IllegalWord Instr :=
  match CommandOp.ofCode (opOf cw) with
  | none => .error .reservedOpcode
  | some op =>
    if cw.extractLsb' 40 4 = 0 then decodeOperands op cw beats else .error .commandReservedBits

/-! ## Event words -/

/-- How many bytes an event word announces: `n` of `EV_MESSAGE`, none for the others (R83). -/
def announcedBytes (ew : EventWord) : Nat :=
  if ew.extractLsb' 12 4 = 0x3 then (ew.extractLsb' 0 8).toNat else 0

/-- An event without a stream: `n` = 0 (R83, R86). -/
def plainEvent (i : Instr) (ew : EventWord) (edata : List Byte) : Except IllegalWord Instr :=
  if ew.extractLsb' 0 8 = 0 then
    if edata = [] then .ok i else .error .streamLength
  else .error .eventCount

/-- The event port's decoder (R83, R86). -/
def decodeEvent (ew : EventWord) (edata : List Byte) : Except IllegalWord Instr :=
  match (ew.extractLsb' 12 4).toNat with
  | 0x1 => if ew.extractLsb' 8 4 = 0 then plainEvent .evConnect ew edata else .error .eventReservedBits
  | 0x2 => if ew.extractLsb' 8 4 = 0 then plainEvent .evWriteDone ew edata else .error .eventReservedBits
  | 0x3 =>
    if ew.extractLsb' 8 4 = 0 then
      if edata.length = (ew.extractLsb' 0 8).toNat then .ok (.evMessage edata) else .error .streamLength
    else .error .eventReservedBits
  | _ => .error .reservedEventCode

/-! ## Words of the output layers -/

/-- A request that has no stream (R84); `zeroFields` says that every field which must be 0 is 0. -/
def plainRequest (i : Instr) (zeroFields : Bool) (tdata : List Byte) : Except IllegalWord Instr :=
  if zeroFields then
    if tdata = [] then .ok i else .error .streamLength
  else .error .requestNonzeroField

/-- The reading of a request word (R84). -/
def decodeRequest (tw : RequestWord) (tdata : List Byte) : Except IllegalWord Instr :=
  match (tw.extractLsb' 44 4).toNat with
  | 0x1 => plainRequest .tDiscover (tw.extractLsb' 0 44 == 0) tdata
  | 0x2 => plainRequest (.tConnect (tw.extractLsb' 0 32)) (tw.extractLsb' 32 12 == 0) tdata
  | 0x3 =>
    if tw.extractLsb' 41 3 = 0 then
      if tdata.length = (tw.extractLsb' 0 8).toNat then
        .ok (.tWrite (tw.getLsbD 40) (tw.extractLsb' 24 16) (tw.extractLsb' 8 16) tdata)
      else .error .streamLength
    else .error .requestNonzeroField
  | 0x4 =>
    plainRequest (.tSubscribe (tw.extractLsb' 24 16) (tw.extractLsb' 8 16))
      (tw.extractLsb' 40 4 == 0 && tw.extractLsb' 0 8 == 0) tdata
  | 0x5 => plainRequest .tTeardown (tw.extractLsb' 0 44 == 0) tdata
  | 0x6 => plainRequest (.tLinkError (tw.extractLsb' 0 8)) (tw.extractLsb' 8 36 == 0) tdata
  | _ => .error .reservedRequestCode

/-- The reading of a family-A frame by its fixed structure (R70 to R75): header, id, length, instruction, address,
payload, and a CRC that is the CRC of the bytes before it (log entry 28). -/
def decodeFrameA (T : CrcTable) (bytes : List Byte) : Except IllegalWord Instr :=
  match bytes with
  | [h0, h1, h2, h3, id, l0, l1, ins, a0, a1, v, c0, c1] =>
    if [h0, h1, h2, h3] = Config.header ∧ l0 = 0x06 ∧ l1 = 0x00 ∧ ins = Config.instWrite then
      if half c1 c0 = computeCrc T 0 [h0, h1, h2, h3, id, l0, l1, ins, a0, a1, v] then
        .ok (.frameAByte id (half a1 a0) v)
      else .error .frameCrc
    else .error .frameShape
  | [h0, h1, h2, h3, id, l0, l1, ins, a0, a1, v0, v1, c0, c1] =>
    if [h0, h1, h2, h3] = Config.header ∧ l0 = 0x07 ∧ l1 = 0x00 ∧ ins = Config.instWrite then
      if half c1 c0 = computeCrc T 0 [h0, h1, h2, h3, id, l0, l1, ins, a0, a1, v0, v1] then
        .ok (.frameAWord id (half a1 a0) (half v1 v0))
      else .error .frameCrc
    else .error .frameShape
  | _ => .error .frameShape

/-- The values of a family-B payload, two bytes each, high byte first (R78); `none` for an odd number of bytes. -/
def rawValues : List Byte → Option (List Int)
  | [] => some []
  | [_] => none
  | hi :: lo :: rest => (rawValues rest).map (ofTc16 (half hi lo) :: ·)

/-- The reading of a family-B payload (R78). -/
def decodeFrameB (bytes : List Byte) : Except IllegalWord Instr :=
  match rawValues bytes with
  | some values => if values.length ≤ Config.rawLenMax then .ok (.frameBRaw values) else .error .rawShape
  | none => .error .rawShape

/-- The closed type of wire instruction values: three named values (R74). -/
def decodeWireInstruction (value : Byte) : Except IllegalWord Instr :=
  if value = Config.instNone then .ok .instNone
  else if value = Config.instRead then .ok .instRead
  else if value = Config.instWrite then .ok .instWrite
  else .error .unnamedWireInstruction

/-- The reading of a word of an output layer, under the CRC table `T`. -/
def decodeOut (T : CrcTable) : OutWord → Except IllegalWord Instr
  | .request tw tdata => decodeRequest tw tdata
  | .frameA bytes => decodeFrameA T bytes
  | .frameB bytes => decodeFrameB bytes
  | .instruction value => decodeWireInstruction value

/-- The decoder of every port word, under the CRC table `T` (only the family-A frame depends on it). -/
def decodeWith (T : CrcTable) : PortWord → Except IllegalWord Instr
  | .command cw cdata => decodeCommand cw cdata
  | .event ew edata => decodeEvent ew edata
  | .tick => .ok .evTick
  | .out w => decodeOut T w

/-- The decoder of this instance. -/
def decode (w : PortWord) : Except IllegalWord Instr := decodeWith Config.params.crcTable w

/-! ## The encoder -/

/-- A command word of the columns of R80's table: `op`, four zero bits, `CW[39:32]`, `CW[31:16]`, `CW[15:8]`,
`CW[7:0]`. -/
def commandWord (op : CommandOp) (b39 : Byte) (h31 : Half) (b15 b7 : Byte) : CommandWord :=
  op.code ++ (0#4) ++ b39 ++ h31 ++ b15 ++ b7

/-- A command word whose low 40 bits are one field. -/
def commandWord40 (op : CommandOp) (low : BitVec 40) : CommandWord := op.code ++ (0#4) ++ low

/-- An event word (R83). -/
def eventWord (code : BitVec 4) (n : Byte) : EventWord := code ++ (0#4) ++ n

/-- A request word: code, three zero bits, `framing`, the low 40 bits (R84). -/
def requestWord (code : BitVec 4) (framing : Bool) (low : BitVec 40) : RequestWord :=
  code ++ (0#3) ++ BitVec.ofBool framing ++ low

/-- The service and characteristic fields of `TW[39:0]` and `CW[39:0]`, and the low byte (R80, R84). -/
def pairField (service : ServiceId) (characteristic : CharId) (low : Byte) : BitVec 40 :=
  service ++ characteristic ++ low

/-- The port word of an instruction, written from R71, R72, R74, R78, R80, R81, R83 and R84. The words of an instruction
that is not well formed carry its lengths and values modulo the width of their field. -/
def encodeWith (T : CrcTable) : Instr → PortWord
  | .crcCompute seed bytes =>
    .command (commandWord .crcCompute 0 seed (hi8 (BitVec.ofNat 16 bytes.length)) (lo8 (BitVec.ofNat 16 bytes.length)))
      (bytes.map byteBeat)
  | .encByteWrite deviceId address value => .command (commandWord .encByteWrite deviceId address 0 value) []
  | .encWordWrite deviceId address value =>
    .command (commandWord .encWordWrite deviceId address (hi8 value) (lo8 value)) []
  | .encRaw values =>
    .command (commandWord .encRaw 0 0 (hi8 (BitVec.ofNat 16 values.length)) (lo8 (BitVec.ofNat 16 values.length)))
      (values.map tc16)
  | .scan => .command (commandWord40 .scan 0) []
  | .connect peripheralId => .command (commandWord40 .connect ((0#8) ++ peripheralId)) []
  | .disconnect => .command (commandWord40 .disconnect 0) []
  | .sreset => .command (commandWord40 .sreset 0) []
  | .isConnected => .command (commandWord40 .isConnected 0) []
  | .send service characteristic payload =>
    .command (commandWord40 .send (pairField service characteristic (BitVec.ofNat 8 payload.length)))
      (payload.map byteBeat)
  | .evConnect => .event (eventWord 0x1 0) []
  | .evWriteDone => .event (eventWord 0x2 0) []
  | .evMessage rawBytes => .event (eventWord 0x3 (BitVec.ofNat 8 rawBytes.length)) rawBytes
  | .evTick => .tick
  | .tDiscover => .out (.request (requestWord 0x1 false 0) [])
  | .tConnect peripheralId => .out (.request (requestWord 0x2 false ((0#8) ++ peripheralId)) [])
  | .tWrite framing service characteristic payload =>
    .out (.request (requestWord 0x3 framing (pairField service characteristic (BitVec.ofNat 8 payload.length))) payload)
  | .tSubscribe service characteristic => .out (.request (requestWord 0x4 false (pairField service characteristic 0)) [])
  | .tTeardown => .out (.request (requestWord 0x5 false 0) [])
  | .tLinkError reason => .out (.request (requestWord 0x6 false ((0#32) ++ reason)) [])
  | .frameAByte deviceId address value => .out (.frameA (byteWriteFrame T deviceId address value))
  | .frameAWord deviceId address value => .out (.frameA (wordWriteFrame T deviceId address value))
  | .frameBRaw values => .out (.frameB (rawPayload values))
  | .instNone => .out (.instruction Config.instNone)
  | .instRead => .out (.instruction Config.instRead)
  | .instWrite => .out (.instruction Config.instWrite)

/-- The encoder of this instance. -/
def encode (i : Instr) : PortWord := encodeWith Config.params.crcTable i

/-! ## The host's table words -/

/-- Byte `k` (counted from 0) of a number; byte 0 is its low 8 bits (the model's choice, log entry 18). -/
def byteOf (w k : Nat) : Byte := BitVec.ofNat 8 (w >>> (8 * k))

/-- The `nbits / 8` bytes of a table word, first byte first. How the bytes of a frame or payload lie in the number is
the model's choice and not R91's, whose `encoding` string has byte 0 first and bit 7 of each byte first and makes no
number of it: byte 0 is the low 8 bits, byte 1 the next 8, as the host numbers a table word's bits (log entry 18). -/
def bytesOf (nbits w : Nat) : List Byte := (List.range (nbits / 8)).map (byteOf w)

/-- A 48-bit table word with operand words of zeros: a command word where the command port accepts it, else a request
word where R84 reads it as one (log entry 18). -/
def tableWord48 (w : Nat) : PortWord :=
  let cw : CommandWord := BitVec.ofNat 48 w
  let command : PortWord := .command cw (List.replicate (announcedBeats cw) 0)
  let tdata : List Byte := if cw.extractLsb' 44 4 = 0x3 then List.replicate (cw.extractLsb' 0 8).toNat 0 else []
  match decodeCommand cw (List.replicate (announcedBeats cw) 0) with
  | .ok _ => command
  | .error _ =>
    match decodeRequest cw tdata with
    | .ok _ => .out (.request cw tdata)
    | .error _ => command

/-- A 16-bit table word: an event word where the event port accepts it, else the two bytes of one raw value
(log entry 18). -/
def tableWord16 (w : Nat) : PortWord :=
  let ew : EventWord := BitVec.ofNat 16 w
  match decodeEvent ew (List.replicate (announcedBytes ew) 0) with
  | .ok _ => .event ew (List.replicate (announcedBytes ew) 0)
  | .error _ => .out (.frameB (bytesOf 16 w))

/-- The port word of an instruction whose bits are `w` as spec/opcode_table.json numbers them. -/
def tableWord (nbits w : Nat) : PortWord :=
  if nbits = 0 then .tick
  else if nbits = 8 then .out (.instruction (BitVec.ofNat 8 w))
  else if nbits = 16 then tableWord16 w
  else if nbits = 48 then tableWord48 w
  else if nbits = 104 ∨ nbits = 112 then .out (.frameA (bytesOf nbits w))
  else .out (.frameB (bytesOf nbits w))

/-- The instruction the decoder reads from a table word; `none` where it refuses. -/
def decodeTableWord (nbits w : Nat) : Option Instr :=
  match decode (tableWord nbits w) with
  | .ok i => some i
  | .error _ => none

end Sys2Proof
end

