-- ==== Sys2Proof/Machine/State.lean ====
section
/-! DEFINITION. The state: the session record of spec/10_state.md R20, and the traffic at the block's ports
(spec/30_encoding.md R79), which the host's interface asks to be held as plain data (log entry 1). -/

namespace Sys2Proof.Machine

/-- `ls`, the link state (R21). -/
inductive LinkState where
  | idle | scanning | connected | disconnected
  deriving DecidableEq, Repr

/-- The 2-bit code of a link state (R21). -/
def LinkState.code : LinkState → BitVec 2
  | .idle => 0
  | .scanning => 1
  | .connected => 2
  | .disconnected => 3

/-- A transport request as the rules write it; its word is `Request.word` (R84). -/
inductive Request where
  /-- `T_DISCOVER`; the filter is the constant `SCAN_FILTER`. -/
  | discover
  /-- `T_CONNECT(peripheralId)`. -/
  | connect (peripheralId : PeripheralId)
  /-- `T_WRITE(service, characteristic, payload, framing)`. -/
  | write (framing : Bool) (service : ServiceId) (characteristic : CharId) (payload : List Byte)
  /-- `T_SUBSCRIBE(service, characteristic)`. -/
  | subscribe (service : ServiceId) (characteristic : CharId)
  /-- `T_TEARDOWN`. -/
  | teardown
  /-- `T_LINK_ERROR(reason)`; the reason string is the constant `WD_REASON`. -/
  | linkError (reason : Byte)
  deriving DecidableEq, Repr

/-- What a command returns to the host (R85). -/
inductive Result where
  /-- A `u16`: the result of `CRC_COMPUTE`. -/
  | word (value : Half)
  /-- A byte sequence, offset 0 first: the result of an encoder. -/
  | bytes (value : List Byte)
  /-- One bit: the result of `ISCONNECTED`. -/
  | bit (value : Bool)
  /-- The spec's `none`: a completion with no data (log entry 20). -/
  | completion
  deriving DecidableEq, Repr

/-- The whole state `s` of one session (R20). `snap` is the snapshot of R27: `none` is `snap_valid` = 0, and
`some bytes` holds `snap[0 .. snap_len - 1]`, so that there is nothing to read where R37 leaves bytes unspecified
(spec/93_implementation_defined.md U7; log entry 11). -/
structure Session where
  /-- `ls` (R21). -/
  ls : LinkState
  /-- `busy`, the busy gate (R23). -/
  busy : Bool
  /-- `busy_cnt`, the busy timer (R24). -/
  busyCnt : BitVec 13
  /-- `wd_active`, watchdog armed (R25). -/
  wdActive : Bool
  /-- `wd_cnt`, the watchdog timer (R26). -/
  wdCnt : BitVec 16
  /-- `snap_valid`, `snap_len` and `snap[..]`, the sensor snapshot (R27). -/
  snap : Option (List Byte)
  deriving DecidableEq, Repr

/-- The session after the hardware reset `RST` (R37, R200). -/
def Session.reset : Session where
  ls := .idle
  busy := false
  busyCnt := 0
  wdActive := false
  wdCnt := 0
  snap := none

/-- The machine: the session, the traffic waiting at the input ports and what has left by the output ports. Every field
but `session` is the model's own form of a port (log entry 1). -/
structure State where
  /-- The session record (R20). -/
  session : Session
  /-- `rst`: the hardware reset is asserted and not yet handled (R79, R200). -/
  rst : Bool
  /-- Command words presented by the host, oldest first (R79). -/
  cwords : List CommandWord
  /-- The beats of the command port's data stream `cdata`, oldest first (R79, R82). -/
  cdata : List Half
  /-- Event words delivered by the transport, oldest first (R79). -/
  ewords : List EventWord
  /-- The bytes of the event port's stream `edata`, oldest first (R79, R83). -/
  edata : List Byte
  /-- Tick pulses not yet handled (R79; log entry 19). -/
  ticks : Nat
  /-- The level of `t_connected`, sampled by `SEND` and `ISCONNECTED` only (R35; log entry 5). -/
  tConnected : Bool
  /-- Levels the transport drives on `t_connected` next, oldest first (R35, R217; log entry 5). -/
  levels : List Bool
  /-- Words of the output layers waiting to be driven one by one; no handler leaves one here (log entry 10). -/
  outbox : List OutWord
  /-- How many inputs have been served: what the open arbitration order is applied to (R63; log entry 4). -/
  turn : Nat
  /-- The requests that have left by the request port, oldest first (R62, R84). -/
  requests : List Request
  /-- The results returned on the result port, oldest first (R85). -/
  results : List Result
  deriving DecidableEq, Repr

/-- The machine right after reset: the session of R37, nothing waiting at any port, nothing emitted (R37: "After `RST`
the block has issued no transport request"). The values of the ports are log entry 1's. -/
def State.reset : State where
  session := Session.reset
  rst := false
  cwords := []
  cdata := []
  ewords := []
  edata := []
  ticks := 0
  tConnected := false
  levels := []
  outbox := []
  turn := 0
  requests := []
  results := []

/-- The block has no faults: "No exceptions, no traps. No command or event raises anything" (R180). A closed type
without a constructor, so that no step can fault. -/
inductive Fault where
  deriving DecidableEq, Repr

/-- Why a step has no next state. -/
inductive Refusal where
  /-- Raised by `exec` only, for an instruction that has no meaning yet. Safe: the model stops. -/
  | notModelled (mnemonic : String)
  /-- Raised by `step` for a word that is no instruction: R86 says that a model "should refuse an illegal word rather
  than give it this meaning". Safe: the hardware drops the word and goes on (log entry 6). -/
  | illegalWord (why : IllegalWord)
  /-- Raised by `INST_NONE` and `INST_READ`, which the block never emits and has no command for (R74, R87; U2).
  Safe: the model stops (log entry 9). -/
  | unusedWireInstruction (value : Byte)
  deriving DecidableEq, Repr

end Sys2Proof.Machine
end

