-- ==== Sys2Proof/Machine/Flags.lean ====
section
/-! DEFINITION. The block's two flags, `busy` and `wd_active`, each with its timer: every way a rule sets, clears, loads
or counts them, and the predicates read from them (spec/10_state.md R22 to R26, R33; spec/42_link_session.md R130,
R140). -/

namespace Sys2Proof.Machine

/-- `BUSY_TICKS` in the width of `busy_cnt` (R8, R24). -/
def busyLoad : BitVec 13 := BitVec.ofNat 13 Config.busyTicks

/-- `WD_TICKS` of the instance in the width of `wd_cnt` (R8, R26). -/
def wdLoad (p : Params) : BitVec 16 := BitVec.ofNat 16 (Config.wdTicks p.family)

namespace Session

/-- `handle_valid(s)` (R22). -/
def handleValid (s : Session) : Bool := s.ls == .scanning || s.ls == .connected

/-- Connected, as `SEND` and `ISCONNECTED` mean it: `ls` is `CONNECTED` and the transport says so (R135). -/
def linkUp (s : Session) (tConnected : Bool) : Bool := s.ls == .connected && tConnected

/-- `eligible(s, t_connected)` (R130). -/
def eligible (s : Session) (tConnected : Bool) : Bool := s.linkUp tConnected && !s.busy

/-- `ARM_WD(s)`: replaces any count in progress (R130). -/
def armWd (p : Params) (s : Session) : Session := { s with wdActive := true, wdCnt := wdLoad p }

/-- `CANCEL_WD(s)` (R130). -/
def cancelWd (s : Session) : Session := { s with wdActive := false, wdCnt := 0 }

/-- An accepted `SEND` closes the gate and starts its timer (R136). -/
def closeGate (s : Session) : Session := { s with busy := true, busyCnt := busyLoad }

/-- The gate is opened and its timer cancelled (R138; R130 under `CANCEL_AND_CLEAR`). -/
def openGate (s : Session) : Session := { s with busy := false, busyCnt := 0 }

/-- One tick of the busy timer: on the decrement that reaches 0 the busy-timeout fires and only releases the gate
(R140, R182). -/
def tickBusy (s : Session) : Session :=
  if s.busyCnt = 0 then s
  else if s.busyCnt - 1 = 0 then { s with busyCnt := s.busyCnt - 1, busy := false }
  else { s with busyCnt := s.busyCnt - 1 }

end Session

end Sys2Proof.Machine
end

