-- ==== Sys2Proof/Machine/Ops.lean ====
section
/-! DEFINITION. The shared operations: what a handler gives back (the triple of spec/00_scope.md R11) and how the machine
takes it, the teardown and the watchdog firing (the block's nearest thing to taking an exception, R188), the hardware
reset, the snapshot view, and the word of a request. -/

namespace Sys2Proof.Machine

/-- `(s', out, res)` of the step model R11: the next session, the requests in the order they are issued, and what is
returned to the host (`none` for events and ticks). -/
structure Reaction where
  session : Session
  out : List Request
  res : Option Result
  deriving DecidableEq, Repr

/-- A handler's reaction takes effect: its requests leave behind those of earlier handlers (R62), its result is
returned, nothing at the input ports changes. -/
def State.commit (s : State) (r : Reaction) : State :=
  { s with session := r.session, requests := s.requests ++ r.out, results := s.results ++ r.res.toList }

/-- `emit R` (R12): the request leaves behind those emitted before. -/
def State.emit (s : State) (r : Request) : State := { s with requests := s.requests ++ [r] }

/-- A result with no other effect: what the CRC and encoder commands do (R58, R100, R118). -/
def State.returnResult (s : State) (r : Result) : State := { s with results := s.results ++ [r] }

/-- `drop` with the completion a command still returns (R12, R85). -/
def Reaction.droppedCommand (s : Session) : Reaction := { session := s, out := [], res := some .completion }

/-- `drop` of an event (R12). -/
def Reaction.droppedEvent (s : Session) : Reaction := { session := s, out := [], res := none }

/-- The session part of `TEARDOWN(s)`: the watchdog is cancelled, and under `CANCEL_AND_CLEAR` the gate is opened
(R130). -/
def Session.teardown (p : Params) (s : Session) : Session :=
  match p.busyOnDisconnect with
  | .runToExpiry => s.cancelWd
  | .cancelAndClear => s.cancelWd.openGate

/-- The request of `TEARDOWN(s)`: `T_TEARDOWN` if a handle exists (R130). -/
def Session.teardownRequests (s : Session) : List Request := if s.handleValid then [.teardown] else []

/-- The watchdog part of `EV_TICK` (R141, R181, R188): on the decrement that reaches 0 the block reports the link
failure once and starts the next interval. Nothing is saved, no mode changes, `ls` and `wd_active` stay. -/
def Session.tickWatchdog (p : Params) (s : Session) : Reaction :=
  if s.wdCnt = 0 then { session := s, out := [], res := none }
  else if s.wdCnt - 1 = 0 then
    { session := { s with wdCnt := wdLoad p }, out := [.linkError Config.reasonDataStopped], res := none }
  else { session := { s with wdCnt := s.wdCnt - 1 }, out := [], res := none }

/-- A command whose word is taken and whose stream is short is in progress: `RST` abandons it and discards the partly
received stream (R200). Commands not yet looked at stay at the port (log entry 13). -/
def State.abandonCommand (s : State) : State :=
  match s.cwords with
  | [] => s
  | cw :: rest => if s.cdata.length < announcedBeats cw then { s with cwords := rest, cdata := [] } else s

/-- The same for a partly received event (R200). -/
def State.abandonEvent (s : State) : State :=
  match s.ewords with
  | [] => s
  | ew :: rest => if s.edata.length < announcedBytes ew then { s with ewords := rest, edata := [] } else s

/-- The hardware reset `RST` (R200): the session is constructed anew, no request is emitted, what is in progress is
abandoned. The record of what has already left stays (log entry 25). -/
def State.hardwareReset (s : State) : State :=
  { s.abandonCommand.abandonEvent with session := Session.reset, rst := false, outbox := [] }

/-! ## Views -/

/-- `snap_valid` (R20, R27). -/
def Session.snapValid (s : Session) : Bool := s.snap.isSome

/-- `snap_len` (R20, R27); 0 while there is no snapshot (R37). -/
def Session.snapLen (s : Session) : Nat := (s.snap.getD []).length

/-- `moving_status(s)` (R28): the byte at the OPEN index of a family-B snapshot that is long enough, else absent. The
spec gives the byte no interpretation, and no rule of the block reads it. -/
def Session.movingStatus (p : Params) (s : Session) : Option Byte :=
  match p.family, s.snap with
  | .b, some bytes => bytes[p.movingIdx]?
  | .b, none => none
  | .a, _ => none

/-- The five states D00 names (R21). -/
inductive NamedState where
  | idle | scanning | connectedIdle | connectedBusy | disconnected
  deriving DecidableEq, Repr

/-- D00's name for `(ls, busy)` (R21); `none` for `busy` = 1 outside `CONNECTED`, which D00 does not name. -/
def Session.named (s : Session) : Option NamedState :=
  match s.ls, s.busy with
  | .idle, false => some .idle
  | .scanning, false => some .scanning
  | .connected, false => some .connectedIdle
  | .connected, true => some .connectedBusy
  | .disconnected, false => some .disconnected
  | .idle, true => none
  | .scanning, true => none
  | .disconnected, true => none

/-! ## The words of the request port -/

/-- The instruction row of a request. -/
def Request.instr : Request → Instr
  | .discover => .tDiscover
  | .connect peripheralId => .tConnect peripheralId
  | .write framing service characteristic payload => .tWrite framing service characteristic payload
  | .subscribe service characteristic => .tSubscribe service characteristic
  | .teardown => .tTeardown
  | .linkError reason => .tLinkError reason

/-- The word and stream that stand on the request port for a request (R84). -/
def Request.portWord (r : Request) : PortWord := encode r.instr

/-- The constant argument that travels outside the word: the filter of a discovery, the reason string of a link error
(R84). -/
def Request.constantArgument (p : Params) : Request → List Byte
  | .discover => p.scanFilter
  | .linkError _ => p.wdReason
  | .connect _ => []
  | .write _ _ _ _ => []
  | .subscribe _ _ => []
  | .teardown => []

end Sys2Proof.Machine
end

