-- ==== Sys2Proof/Machine/LinkCommands.lean ====
section
/-! DEFINITION. The commands of the Link Session (spec/42_link_session.md R131 to R136): each handler as the step model
R11 has it, over the parameters and the session, and the meaning that commits it. -/

namespace Sys2Proof.Machine

/-- `SCAN` (R131): an existing handle is torn down first, then a new discovery is issued. -/
def onScan (p : Params) (s : Session) : Reaction where
  session := { (if s.handleValid then s.teardown p else s) with ls := .scanning }
  out := s.teardownRequests ++ [.discover]
  res := some .completion

/-- `CONNECT peripheralId` (R132): with a handle the request is emitted, without one the command is dropped. -/
def onConnectCommand (peripheralId : PeripheralId) (s : Session) : Reaction :=
  if s.handleValid then { session := s, out := [.connect peripheralId], res := some .completion }
  else .droppedCommand s

/-- `DISCONNECT` (R133). -/
def onDisconnect (p : Params) (s : Session) : Reaction where
  session := { s.teardown p with ls := .disconnected }
  out := s.teardownRequests
  res := some .completion

/-- `SRESET` (R134). -/
def onSreset (p : Params) (s : Session) : Reaction where
  session := { s.teardown p with ls := .idle }
  out := s.teardownRequests
  res := some .completion

/-- `ISCONNECTED` (R135). -/
def onIsConnected (tConnected : Bool) (s : Session) : Reaction where
  session := s
  out := []
  res := some (.bit (s.linkUp tConnected))

/-- `SEND service, characteristic, payload` (R136): written if eligible, else dropped without a trace (R144). -/
def onSend (p : Params) (tConnected : Bool) (service : ServiceId) (characteristic : CharId) (payload : List Byte)
    (s : Session) : Reaction :=
  if s.eligible tConnected then
    { session := s.closeGate, out := [.write p.writeFraming service characteristic payload], res := some .completion }
  else .droppedCommand s

/-- The meaning of `SCAN` (R131). -/
def execScan (s : State) : Host.Outcome State Fault Refusal := .next (s.commit (onScan Config.params s.session))

/-- The meaning of `CONNECT` (R132). -/
def execConnect (peripheralId : PeripheralId) (s : State) : Host.Outcome State Fault Refusal :=
  .next (s.commit (onConnectCommand peripheralId s.session))

/-- The meaning of `DISCONNECT` (R133). -/
def execDisconnect (s : State) : Host.Outcome State Fault Refusal :=
  .next (s.commit (onDisconnect Config.params s.session))

/-- The meaning of `SRESET` (R134). -/
def execSreset (s : State) : Host.Outcome State Fault Refusal := .next (s.commit (onSreset Config.params s.session))

/-- The meaning of `ISCONNECTED` (R135). -/
def execIsConnected (s : State) : Host.Outcome State Fault Refusal :=
  .next (s.commit (onIsConnected s.tConnected s.session))

/-- The meaning of `SEND` (R136). -/
def execSend (service : ServiceId) (characteristic : CharId) (payload : List Byte) (s : State) :
    Host.Outcome State Fault Refusal :=
  .next (s.commit (onSend Config.params s.tConnected service characteristic payload s.session))

end Sys2Proof.Machine
end

