-- ==== Sys2Proof/Machine/LinkEvents.lean ====
section
/-! DEFINITION. The events of the Link Session (spec/42_link_session.md R137 to R141). -/

namespace Sys2Proof.Machine

/-- `EV_CONNECT` (R137): with a handle the block subscribes, arms the watchdog and is connected; without one the event
is dropped. `busy` is not written. -/
def onEvConnect (p : Params) (s : Session) : Reaction :=
  if s.handleValid then
    { session := { s.armWd p with ls := .connected }, out := [.subscribe p.rxService p.rxChar], res := none }
  else .droppedEvent s

/-- `EV_WRITE_DONE` (R138): unconditional. -/
def onEvWriteDone (s : Session) : Reaction where
  session := s.openGate
  out := []
  res := none

/-- What a message leaves as the snapshot: family B stores the raw bytes, family A stores nothing (R27, R139). -/
def storeMessage (p : Params) (rawBytes : List Byte) (s : Session) : Session :=
  match p.family with
  | .a => s
  | .b => { s with snap := some rawBytes }

/-- `EV_MESSAGE rawBytes` (R139): in `CONNECTED` the snapshot is stored and the watchdog restarted; elsewhere the
message is dropped. -/
def onEvMessage (p : Params) (rawBytes : List Byte) (s : Session) : Reaction :=
  if s.ls = .connected then { session := (storeMessage p rawBytes s).armWd p, out := [], res := none }
  else .droppedEvent s

/-- `EV_TICK`: both timers count on every tick (R140, R141); they touch disjoint fields. -/
def onEvTick (p : Params) (s : Session) : Reaction := s.tickBusy.tickWatchdog p

/-- The meaning of `EV_CONNECT` (R137). -/
def execEvConnect (s : State) : Host.Outcome State Fault Refusal :=
  .next (s.commit (onEvConnect Config.params s.session))

/-- The meaning of `EV_WRITE_DONE` (R138). -/
def execEvWriteDone (s : State) : Host.Outcome State Fault Refusal := .next (s.commit (onEvWriteDone s.session))

/-- The meaning of `EV_MESSAGE` (R139). -/
def execEvMessage (rawBytes : List Byte) (s : State) : Host.Outcome State Fault Refusal :=
  .next (s.commit (onEvMessage Config.params rawBytes s.session))

/-- The meaning of `EV_TICK` (R140, R141). -/
def execEvTick (s : State) : Host.Outcome State Fault Refusal := .next (s.commit (onEvTick Config.params s.session))

end Sys2Proof.Machine
end

