-- ==== Sys2Proof/Machine/OutputRows.lean ====
section
/-! DEFINITION. The rows of the output layers. A transport request is an output of the block: its effect is `emit`
(spec/00_scope.md R12, spec/30_encoding.md R84; log entry 7). A wire frame and the wire value `INST_WRITE` are bytes the
Packet Encoder produces, which leave the block on the result port (R85, R120; log entry 8). `INST_NONE` and `INST_READ`
are never produced (R74, R87; log entry 9). -/

namespace Sys2Proof.Machine

/-- `T_DISCOVER` (R84). -/
def execTDiscover (s : State) : Host.Outcome State Fault Refusal := .next (s.emit .discover)

/-- `T_CONNECT` (R84). -/
def execTConnect (peripheralId : PeripheralId) (s : State) : Host.Outcome State Fault Refusal :=
  .next (s.emit (.connect peripheralId))

/-- `T_WRITE` (R84). -/
def execTWrite (framing : Bool) (service : ServiceId) (characteristic : CharId) (payload : List Byte) (s : State) :
    Host.Outcome State Fault Refusal :=
  .next (s.emit (.write framing service characteristic payload))

/-- `T_SUBSCRIBE` (R84). -/
def execTSubscribe (service : ServiceId) (characteristic : CharId) (s : State) : Host.Outcome State Fault Refusal :=
  .next (s.emit (.subscribe service characteristic))

/-- `T_TEARDOWN` (R84). -/
def execTTeardown (s : State) : Host.Outcome State Fault Refusal := .next (s.emit .teardown)

/-- `T_LINK_ERROR` (R84). -/
def execTLinkError (reason : Byte) (s : State) : Host.Outcome State Fault Refusal := .next (s.emit (.linkError reason))

/-- `FRAME_A_BYTE` (R71): the 13 bytes of the frame. -/
def execFrameAByte (deviceId : Byte) (address : Half) (value : Byte) (s : State) : Host.Outcome State Fault Refusal :=
  .next (s.returnResult (.bytes (byteWriteFrame Config.params.crcTable deviceId address value)))

/-- `FRAME_A_WORD` (R72): the 14 bytes of the frame. -/
def execFrameAWord (deviceId : Byte) (address : Half) (value : Half) (s : State) : Host.Outcome State Fault Refusal :=
  .next (s.returnResult (.bytes (wordWriteFrame Config.params.crcTable deviceId address value)))

/-- `FRAME_B_RAW` (R78): the `2n` bytes of the payload. -/
def execFrameBRaw (values : List Int) (s : State) : Host.Outcome State Fault Refusal :=
  .next (s.returnResult (.bytes (rawPayload values)))

/-- `INST_NONE` (R74, R87): never emitted, and there is no command for it (U2: `refuse`). -/
def execInstNone (_ : State) : Host.Outcome State Fault Refusal := .refused (.unusedWireInstruction Config.instNone)

/-- `INST_READ` (R74, R87): never emitted, and there is no command for it (U2: `refuse`). -/
def execInstRead (_ : State) : Host.Outcome State Fault Refusal := .refused (.unusedWireInstruction Config.instRead)

/-- `INST_WRITE` (R74): the one instruction value the block puts on the wire. -/
def execInstWrite (s : State) : Host.Outcome State Fault Refusal := .next (s.returnResult (.bytes [Config.instWrite]))

end Sys2Proof.Machine
end

