-- ==== Sys2Proof/Machine/PureUnits.lean ====
section
/-! DEFINITION. The commands of the CRC Engine and the Packet Encoder (spec/40_crc.md R100; spec/41_encoder.md R111,
R112, R115). They read no field of the session and write none, and are accepted in every state (R58, R118). -/

namespace Sys2Proof.Machine

/-- `CRC_COMPUTE seed, bytes` (R100): returns the fold of the update step. -/
def execCrcCompute (seed : Half) (bytes : List Byte) (s : State) : Host.Outcome State Fault Refusal :=
  .next (s.returnResult (.word (computeCrc Config.params.crcTable seed bytes)))

/-- `ENC_BYTE_WRITE deviceId, address, value` (R111): returns the 13-byte frame. -/
def execEncByteWrite (deviceId : Byte) (address : Half) (value : Byte) (s : State) :
    Host.Outcome State Fault Refusal :=
  .next (s.returnResult (.bytes (byteWriteFrame Config.params.crcTable deviceId address value)))

/-- `ENC_WORD_WRITE deviceId, address, value` (R112): returns the 14-byte frame. -/
def execEncWordWrite (deviceId : Byte) (address : Half) (value : Half) (s : State) :
    Host.Outcome State Fault Refusal :=
  .next (s.returnResult (.bytes (wordWriteFrame Config.params.crcTable deviceId address value)))

/-- `ENC_RAW values` (R115): returns the `2n` bytes of the payload, no value clamped (R113). -/
def execEncRaw (values : List Int) (s : State) : Host.Outcome State Fault Refusal :=
  .next (s.returnResult (.bytes (rawPayload values)))

end Sys2Proof.Machine
end

