-- ==== Sys2Proof/Machine/Dispatch.lean ====
section
/-! DEFINITION. One arm per row of spec/opcode_table.json. -/

namespace Sys2Proof.Machine

def exec (i : Instr) (s : State) : Host.Outcome State Fault Refusal :=
  match i with
  | .crcCompute seed bytes => Sys2Proof.Machine.execCrcCompute seed bytes s
  | .encByteWrite deviceId address value => Sys2Proof.Machine.execEncByteWrite deviceId address value s
  | .encWordWrite deviceId address value => Sys2Proof.Machine.execEncWordWrite deviceId address value s
  | .encRaw values => Sys2Proof.Machine.execEncRaw values s
  | .scan => Sys2Proof.Machine.execScan s
  | .connect peripheralId => Sys2Proof.Machine.execConnect peripheralId s
  | .disconnect => Sys2Proof.Machine.execDisconnect s
  | .sreset => Sys2Proof.Machine.execSreset s
  | .isConnected => Sys2Proof.Machine.execIsConnected s
  | .send service characteristic payload => Sys2Proof.Machine.execSend service characteristic payload s
  | .evConnect => Sys2Proof.Machine.execEvConnect s
  | .evWriteDone => Sys2Proof.Machine.execEvWriteDone s
  | .evMessage rawBytes => Sys2Proof.Machine.execEvMessage rawBytes s
  | .evTick => Sys2Proof.Machine.execEvTick s
  | .tDiscover => Sys2Proof.Machine.execTDiscover s
  | .tConnect peripheralId => Sys2Proof.Machine.execTConnect peripheralId s
  | .tWrite framing service characteristic payload => Sys2Proof.Machine.execTWrite framing service characteristic payload s
  | .tSubscribe service characteristic => Sys2Proof.Machine.execTSubscribe service characteristic s
  | .tTeardown => Sys2Proof.Machine.execTTeardown s
  | .tLinkError reason => Sys2Proof.Machine.execTLinkError reason s
  | .frameAByte deviceId address value => Sys2Proof.Machine.execFrameAByte deviceId address value s
  | .frameAWord deviceId address value => Sys2Proof.Machine.execFrameAWord deviceId address value s
  | .frameBRaw values => Sys2Proof.Machine.execFrameBRaw values s
  | .instNone => Sys2Proof.Machine.execInstNone s
  | .instRead => Sys2Proof.Machine.execInstRead s
  | .instWrite => Sys2Proof.Machine.execInstWrite s

end Sys2Proof.Machine
end

