-- ==== Sys2Proof/Machine/Ports.lean ====
section
/-! DEFINITION. How inputs reach the handlers: which of the pending inputs goes next and how its word and stream are
taken from the port (spec/20_memory.md R61, R63; spec/30_encoding.md R79, R82, R83; spec/70_reset_and_hazards.md
R200). -/

namespace Sys2Proof.Machine

/-- Where the next step comes from. The last four are the sources R63 orders freely. -/
inductive Source where
  /-- The `rst` pin. -/
  | resetPin
  /-- The block's own output layers (log entry 10). -/
  | outbox
  /-- The host, on the command port. -/
  | host
  /-- The transport, on the event port. -/
  | transport
  /-- The time base, on the `tick` input. -/
  | timeBase
  /-- The transport, on the level `t_connected`. -/
  | level
  deriving DecidableEq, Repr

/-- A command is pending when its word and the whole stream it announces have been supplied; a short one stalls the
command port and nothing else (R82). -/
def hostReady (s : State) : Bool :=
  match s.cwords with
  | [] => false
  | cw :: _ => decide (announcedBeats cw ≤ s.cdata.length)

/-- An event is pending when it has been delivered whole, word and stream (R217; log entry 12). -/
def transportReady (s : State) : Bool :=
  match s.ewords with
  | [] => false
  | ew :: _ => decide (announcedBytes ew ≤ s.edata.length)

/-- The sources with a pending input, in no order that matters: `arbitrate` chooses. -/
def readySources (s : State) : List Source :=
  (if hostReady s then [Source.host] else []) ++ (if transportReady s then [Source.transport] else []) ++
    (if s.ticks = 0 then [] else [Source.timeBase]) ++ (if s.levels.isEmpty then [] else [Source.level])

/-- One of the pending sources; which one, where there are several, is OPEN (R63; log entry 4). -/
def arbitrate (turn : Nat) : List Source → Option Source
  | [] => none
  | [x] => some x
  | x :: y :: rest => (x :: y :: rest)[Config.arbiter turn % (rest.length + 2)]?

/-- The source served next: `RST` takes priority over every other input (R200); a word of the block's own output layers
leaves before another input is looked at (R11); then the pending inputs, in an open order. -/
def pick (s : State) : Option Source :=
  if s.rst then some .resetPin
  else if s.outbox.isEmpty then arbitrate s.turn (readySources s)
  else some .outbox

/-- The word of the source is taken with exactly the stream it announces (R82); each source keeps its own order (R63).
The reset pin and the level carry no word. -/
def fetch (source : Source) (s : State) : Option (PortWord × State) :=
  match source with
  | .host =>
    match s.cwords with
    | [] => none
    | cw :: rest =>
      some (.command cw (s.cdata.take (announcedBeats cw)),
        { s with cwords := rest, cdata := s.cdata.drop (announcedBeats cw), turn := s.turn + 1 })
  | .transport =>
    match s.ewords with
    | [] => none
    | ew :: rest =>
      some (.event ew (s.edata.take (announcedBytes ew)),
        { s with ewords := rest, edata := s.edata.drop (announcedBytes ew), turn := s.turn + 1 })
  | .timeBase =>
    if s.ticks = 0 then none else some (.tick, { s with ticks := s.ticks - 1, turn := s.turn + 1 })
  | .outbox =>
    match s.outbox with
    | [] => none
    | w :: rest => some (.out w, { s with outbox := rest })
  | .resetPin => none
  | .level => none

/-- The transport drives the next level on `t_connected` (R35). -/
def State.driveLevel (s : State) : State :=
  match s.levels with
  | [] => s
  | level :: rest => { s with tConnected := level, levels := rest, turn := s.turn + 1 }

/-- `s` with a port word placed where the next step takes it: behind nothing at its own port, with no other input
pending (the order among pending inputs is open, so nothing less makes the very next step run it). -/
def State.place (s : State) (w : PortWord) : State :=
  match w with
  | .command cw cdata =>
    { s with rst := false, outbox := [], ewords := [], ticks := 0, levels := [], cwords := cw :: s.cwords,
             cdata := cdata ++ s.cdata }
  | .event ew edata =>
    { s with rst := false, outbox := [], cwords := [], ticks := 0, levels := [], ewords := ew :: s.ewords,
             edata := edata ++ s.edata }
  | .tick =>
    { s with rst := false, outbox := [], cwords := [], ewords := [], levels := [], ticks := s.ticks + 1 }
  | .out w => { s with rst := false, outbox := w :: s.outbox }

end Sys2Proof.Machine
end

