-- ==== Sys2Proof/Machine/Step.lean ====
section
/-! DEFINITION. One step: one input handled to completion (spec/00_scope.md R11; spec/20_memory.md R61). -/

namespace Sys2Proof.Machine

/-- The decoded word runs; a word that is no instruction is refused by name (R86; log entry 6). -/
def runWord (w : PortWord) (s : State) : Host.Outcome State Fault Refusal :=
  match decode w with
  | .ok i => exec i s
  | .error why => .refused (.illegalWord why)

/-- One step: the source served next is handled. With nothing pending the block waits (R203, R219; log entry 14). -/
def step (s : State) : Host.Outcome State Fault Refusal :=
  match pick s with
  | none => .next s
  | some .resetPin => .next s.hardwareReset
  | some .level => .next s.driveLevel
  | some source =>
    match fetch source s with
    | none => .next s
    | some (w, t) => runWord w t

/-- `s` with an instruction of spec/opcode_table.json placed where the next step takes it (log entry 14). -/
def State.withFetchWord (s : State) (nbits w : Nat) : State := s.place (tableWord nbits w)

end Sys2Proof.Machine
end

