-- ==== Sys2Proof/Machine/Caller.lean ====
section
/-! DEFINITION. The two caller-side transforms that the assembler names (spec/30_encoding.md R89): expansions done by the
caller before an encoder is called, not operations of the block. -/

namespace Sys2Proof.Machine

/-- The fold offset `base(dir)` (R89). -/
def directionBase (dir : Bool) : Nat := if dir then 1023 else 0

/-- `ENC_WORD_WRITE.DIR deviceId, address, dir, magnitude` (R89); `none` where the sum is no `u16` (log entry 24). -/
def encWordWriteDir (deviceId : Byte) (address : Half) (dir : Bool) (magnitude : Nat) : Option Instr :=
  if directionBase dir + magnitude < 65536 then
    some (.encWordWrite deviceId address (BitVec.ofNat 16 (directionBase dir + magnitude)))
  else none

/-- `CLAMP300 v` = `max(-300, min(300, v))` (R89). -/
def clamp300 (v : Int) : Int := max (-300) (min 300 v)

end Sys2Proof.Machine
end

