-- ==== Sys2Proof/Machine/Candidates.lean ====
section
/-! DEFINITION. The candidate CRC tables of spec/43_crc_table_candidates.md (R171 to R174): general knowledge, not the
source's, and no part of the machine, whose table stays OPEN (log entry 16). They serve claims that name the table they
assume (R106). -/

namespace Sys2Proof.Machine

/-- One round of R171 for the polynomial `P`. -/
def msbRound (P c : Half) : Half := if c.msb then (c <<< 1) ^^^ P else c <<< 1

/-- The most-significant-bit-first table of the polynomial `P` (R171). -/
def msbTable (P : Half) : CrcTable := fun i => Nat.repeat (msbRound P) 8 (half i 0)

/-- Candidate `T_8005` (R172). -/
def table8005 : CrcTable := msbTable 0x8005

/-- Candidate `T_3D65` (R173). -/
def table3D65 : CrcTable := msbTable 0x3D65

/-- One round of R174. -/
def lsbRound (P c : Half) : Half := if c.getLsbD 0 then (c >>> 1) ^^^ P else c >>> 1

/-- The reflected table of R174, recorded for recognition only: not a candidate. -/
def tableReflected : CrcTable := fun i => Nat.repeat (lsbRound 0xA6BC) 8 (half 0 i)

end Sys2Proof.Machine
end

