-- ==== Sys2Proof/Safety.lean ====
section
/-! DEFINITION. The terms claims are stated in: what an instruction answers and what it leaves alone, the invariant of
spec/10_state.md R38, the duties of the two neighbours (spec/70_reset_and_hazards.md R216, R217), runs over a sequence of
inputs (spec/20_memory.md R61), and the step model of spec/00_scope.md R11 as one function. -/

namespace Sys2Proof.Machine

/-! ## What an instruction answers -/

/-- Nothing at the input ports, on the pins, in the outbox or in the arbitration order differs. -/
def State.SamePorts (s t : State) : Prop :=
  t.rst = s.rst ∧ t.cwords = s.cwords ∧ t.cdata = s.cdata ∧ t.ewords = s.ewords ∧ t.edata = s.edata ∧
    t.ticks = s.ticks ∧ t.tConnected = s.tConnected ∧ t.levels = s.levels ∧ t.outbox = s.outbox ∧ t.turn = s.turn

/-- From `s` the outcome is a next state whose session is `session`, in which exactly the requests `out` have left
behind those of `s` and exactly the results `res` have been returned behind those of `s`, and nothing else differs. -/
def Answers (s : State) (o : Host.Outcome State Fault Refusal) (session : Session) (out : List Request)
    (res : List Result) : Prop :=
  ∃ t, o = .next t ∧ t.session = session ∧ t.requests = s.requests ++ out ∧ t.results = s.results ++ res ∧
    s.SamePorts t

/-! ## The invariant of R38 -/

/-- R38, in its order: the gate and its timer agree; the counters stay within their load values; the watchdog flag, its
count and `CONNECTED` agree; a snapshot is a family-B message; the handle is a view of `ls`. -/
structure Session.Inv (p : Params) (s : Session) : Prop where
  busy_iff : s.busy = true ↔ s.busyCnt ≠ 0
  busyCnt_le : s.busyCnt.toNat ≤ Config.busyTicks
  wdCnt_le : s.wdCnt.toNat ≤ Config.wdTicks p.family
  wd_iff_cnt : s.wdActive = true ↔ s.wdCnt ≠ 0
  wd_iff_ls : s.wdActive = true ↔ s.ls = .connected
  snap_family : ∀ bytes, s.snap = some bytes → p.family = .b ∧ bytes.length ≤ Config.msgMax
  handle_iff : s.handleValid = true ↔ s.ls = .scanning ∨ s.ls = .connected

/-- The invariant of the machine: R38 for this instance. -/
def State.Inv (s : State) : Prop := s.session.Inv Config.params

/-- What the neighbours can do between two steps: anything at all at the input ports and pins, and nothing to the
session, to what has left, or to the block's own outbox and order (R61, R216, R217). -/
def State.Environment (s t : State) : Prop :=
  t.session = s.session ∧ t.requests = s.requests ∧ t.results = s.results ∧ t.outbox = s.outbox ∧ t.turn = s.turn

/-- The states a machine can be in: reset, then steps and inputs from the neighbours in any order. -/
inductive Reachable : State → Prop where
  | reset : Reachable State.reset
  | step {s t : State} : Reachable s → Machine.step s = .next t → Reachable t
  | inputs {s t : State} : Reachable s → s.Environment t → Reachable t

/-! ## The duties of the neighbours -/

/-- The transport "keeps `t_connected = 0` while the session has no handle" (R217). -/
def State.TransportDuty (s : State) : Prop := s.session.handleValid = false → s.tConnected = false

/-- The host's duty at the command port (R216): every command that will be served is a legal word with a legal stream.
A short stream stalls its command; an `RST` would abandon that command with the beats received. -/
def CommandsLegal : List CommandWord → List Half → Prop
  | [], _ => True
  | cw :: rest, beats =>
    if beats.length < announcedBeats cw then CommandsLegal rest []
    else (∃ i, decode (.command cw (beats.take (announcedBeats cw))) = .ok i) ∧
      CommandsLegal rest (beats.drop (announcedBeats cw))

/-- The transport's duty at the event port (R217): it never delivers an ill-formed event word. -/
def EventsLegal : List EventWord → List Byte → Prop
  | [], _ => True
  | ew :: rest, bytes =>
    if bytes.length < announcedBytes ew then EventsLegal rest []
    else (∃ i, decode (.event ew (bytes.take (announcedBytes ew))) = .ok i) ∧
      EventsLegal rest (bytes.drop (announcedBytes ew))

/-- Both neighbours keep their duty of handing over legal words. -/
def State.PortsLegal (s : State) : Prop :=
  CommandsLegal s.cwords s.cdata ∧ EventsLegal s.ewords s.edata ∧ s.outbox = []

/-- Nothing is pending: the run under consideration is over (R219). -/
def State.Waiting (s : State) : Prop := pick s = none

/-! ## Runs -/

/-- One input and the level `t_connected` has when it is handled (R11, R35). -/
structure Stimulus where
  level : Bool
  input : Instr
  deriving DecidableEq, Repr

/-- `exec` folded over a sequence of inputs, each handled under its own level (R61). -/
def runInputs : List Stimulus → State → Host.Outcome State Fault Refusal
  | [], s => .next s
  | x :: xs, s =>
    match exec x.input { s with tConnected := x.level } with
    | .next t => runInputs xs t
    | .fault f => .fault f
    | .refused r => .refused r

/-- `EV_TICK * k` (R88), under one level. -/
def tickRun (level : Bool) (k : Nat) : List Stimulus := List.replicate k ⟨level, .evTick⟩

/-- The number of ticks in a sequence of inputs. -/
def tickCount (xs : List Stimulus) : Nat := xs.countP fun x => x.input == .evTick

/-- One of the three commands that apply `TEARDOWN` (R130). -/
def isTeardown (i : Instr) : Bool := i == .scan || i == .disconnect || i == .sreset

/-- An inbound message (R139). -/
def isMessage : Instr → Bool
  | .evMessage _ => true
  | _ => false

/-- A `T_WRITE`. -/
def Request.isWrite : Request → Bool
  | .write _ _ _ _ => true
  | .discover => false
  | .connect _ => false
  | .subscribe _ _ => false
  | .teardown => false
  | .linkError _ => false

/-- A `T_LINK_ERROR`. -/
def Request.isLinkError : Request → Bool
  | .linkError _ => true
  | .write _ _ _ _ => false
  | .discover => false
  | .connect _ => false
  | .subscribe _ _ => false
  | .teardown => false

/-- The `T_WRITE`s among requests, in order. -/
def writesOf (rs : List Request) : List Request := rs.filter Request.isWrite

/-- The `T_LINK_ERROR`s among requests, in order. -/
def linkErrorsOf (rs : List Request) : List Request := rs.filter Request.isLinkError

/-- Fewer than `limit` ticks pass before each next message, `n` of them having passed already (R141: "in every run of
`WD_TICKS` consecutive ticks at least one `EV_MESSAGE` is handled"). -/
def FedWithin (limit : Nat) : Nat → List Stimulus → Prop
  | _, [] => True
  | n, x :: xs =>
    if x.input = .evTick then n + 1 < limit ∧ FedWithin limit (n + 1) xs
    else if isMessage x.input then FedWithin limit 0 xs
    else FedWithin limit n xs

/-- `IDLE` and `DISCONNECTED` are one state as far as anything outside can tell (R40). -/
def LinkState.Alike (a b : LinkState) : Prop :=
  a = b ∨ ((a = .idle ∨ a = .disconnected) ∧ (b = .idle ∨ b = .disconnected))

/-- Sessions that differ at most in which of `IDLE` and `DISCONNECTED` they are in (R40). -/
def Session.Alike (a b : Session) : Prop := a.ls.Alike b.ls ∧ { a with ls := b.ls } = b

/-! ## The step model R11 -/

/-- `step(cfg, s, in)` of R11 over the inputs of the block, for any parameters: the reaction of the session `s` to the
input `i` while `t_connected` has the level `tConnected`. `none` for a row that is no input. -/
def reaction (p : Params) (tConnected : Bool) (s : Session) : Instr → Option Reaction
  | .crcCompute seed bytes => some ⟨s, [], some (.word (computeCrc p.crcTable seed bytes))⟩
  | .encByteWrite deviceId address value => some ⟨s, [], some (.bytes (byteWriteFrame p.crcTable deviceId address value))⟩
  | .encWordWrite deviceId address value => some ⟨s, [], some (.bytes (wordWriteFrame p.crcTable deviceId address value))⟩
  | .encRaw values => some ⟨s, [], some (.bytes (rawPayload values))⟩
  | .scan => some (onScan p s)
  | .connect peripheralId => some (onConnectCommand peripheralId s)
  | .disconnect => some (onDisconnect p s)
  | .sreset => some (onSreset p s)
  | .isConnected => some (onIsConnected tConnected s)
  | .send service characteristic payload => some (onSend p tConnected service characteristic payload s)
  | .evConnect => some (onEvConnect p s)
  | .evWriteDone => some (onEvWriteDone s)
  | .evMessage rawBytes => some (onEvMessage p rawBytes s)
  | .evTick => some (onEvTick p s)
  | .tDiscover => none
  | .tConnect _ => none
  | .tWrite _ _ _ _ => none
  | .tSubscribe _ _ => none
  | .tTeardown => none
  | .tLinkError _ => none
  | .frameAByte _ _ _ => none
  | .frameAWord _ _ _ => none
  | .frameBRaw _ => none
  | .instNone => none
  | .instRead => none
  | .instWrite => none

end Sys2Proof.Machine
end

