-- ==== Sys2Proof/Certificates/Slice0/Obligations.lean ====
section
/-! DEFINITION. The statements for the provers, each formalising rules of spec/ or saying that it is the model's own.
Throughout, the ports, what has left by them and the pin `t_connected` are the plain data of log entries 1 and 5, the
parameters are the constant without a body of log entry 2 (`BUSY_ON_DISCONNECT` open too, log entry 3), the snapshot is
the option of log entry 11, and `completion` is the result `none` of a command (log entry 20). -/

open Sys2Proof Sys2Proof.Machine

/-! ## Encodings -/

/-- No bit of an encoding is dropped: every well-formed row of the table survives encoding and decoding. For the
request, frame and wire value rows this rests on the model's choice that the decoder also reads the words of the output
layers (log entry 28: the block itself decodes none of them, R77); for negative raw values the layout is two's
complement (log entry 15). -/
def Obligations.DecodeOfEncodeGivesBack : Prop :=
  ∀ (T : CrcTable) (i : Instr), WellFormed i = true → decodeWith T (encodeWith T i) = .ok i

/-- Every word has one meaning: what the decoder accepts is the encoding of the instruction it reads, and that
instruction is well formed. For requests, frames and wire values, which the block itself never decodes (R77), what is
accepted, and that a family-A frame is accepted only with the CRC of the bytes before it, is the model's choice (log
entry 28); that words are refused rather than dropped is R86's and U6's advice to a model (log entry 6); for raw values
the layout is two's complement (log entry 15). -/
def Obligations.EncodeOfDecodeGivesBack : Prop :=
  ∀ (T : CrcTable) (w : PortWord) (i : Instr), decodeWith T w = .ok i → encodeWith T i = w ∧ WellFormed i = true

/-- Words written out in spec/95_test_vectors.md decode to the instructions that stand beside them there; but for the
`CONNECT` word, which is written out by hand from format P of R80 and the `op` of R81. That a frame decodes at all is
the model's choice (log entry 28: the block reads none), and the frame's CRC is that of the candidate table `T_8005`
(log entry 16). That the beat 0xFED4 is the raw value -300 is the two's complement of GK2, general knowledge to the spec
(log entry 15). -/
def Obligations.VectorWordsDecode : Prop :=
  decodeCommand 0x40C800980000 [] = .ok (.encByteWrite 200 152 0) ∧
    decodeCommand 0x50C8005403FF [] = .ok (.encWordWrite 200 84 1023) ∧
    decodeCommand 0x600000000002 [0x012C, 0xFED4] = .ok (.encRaw [300, -300]) ∧
    decodeCommand 0x9000FFFFFFFF [] = .ok (.connect 0xFFFFFFFF) ∧
    decodeCommand 0xD00005000604 [0x0001, 0x002C, 0x00FE, 0x00D4] = .ok (.send 5 6 [0x01, 0x2C, 0xFE, 0xD4]) ∧
    decodeEvent 0x3001 [0x01] = .ok (.evMessage [0x01]) ∧
    decodeRequest 0x400001000300 [] = .ok (.tSubscribe 1 3) ∧
    decodeFrameA table8005
      [0xFF, 0xFF, 0xFD, 0x00, 0xC8, 0x06, 0x00, 0x03, 0x98, 0x00, 0x00, 0xAE, 0x2D] = .ok (.frameAByte 200 152 0)

/-- R80 and the opcodes of R81 as arithmetic on the word: the opcode in `CW[47:44]`, `CW[43:40]` zero, every operand
field at its place, and the stream of beats. The beat of a raw value is its residue modulo 65536: for a negative `i16`
that is the two's complement of R12's `tc16` (general knowledge to the spec, log entry 15), and for an integer that is
no `i16` it is the model's own (log entry 17). -/
def Obligations.CommandWordLayout : Prop :=
  (∀ seed bytes, bytes.length ≤ 65535 →
      ∃ cw, encode (.crcCompute seed bytes) = .command cw (bytes.map fun b => BitVec.ofNat 16 b.toNat) ∧
        cw.toNat = 0x1 * 2 ^ 44 + seed.toNat * 2 ^ 16 + bytes.length) ∧
    (∀ deviceId address value, ∃ cw, encode (.encByteWrite deviceId address value) = .command cw [] ∧
        cw.toNat = 0x4 * 2 ^ 44 + deviceId.toNat * 2 ^ 32 + address.toNat * 2 ^ 16 + value.toNat) ∧
    (∀ deviceId address value, ∃ cw, encode (.encWordWrite deviceId address value) = .command cw [] ∧
        cw.toNat = 0x5 * 2 ^ 44 + deviceId.toNat * 2 ^ 32 + address.toNat * 2 ^ 16 + value.toNat) ∧
    (∀ values : List Int, values.length ≤ 65535 →
      ∃ cw beats, encode (.encRaw values) = .command cw beats ∧ cw.toNat = 0x6 * 2 ^ 44 + values.length ∧
        beats.map (fun b => (b.toNat : Int)) = values.map (fun v => v % 65536)) ∧
    (∃ cw, encode .scan = .command cw [] ∧ cw.toNat = 0x8 * 2 ^ 44) ∧
    (∀ peripheralId, ∃ cw, encode (.connect peripheralId) = .command cw [] ∧
        cw.toNat = 0x9 * 2 ^ 44 + peripheralId.toNat) ∧
    (∃ cw, encode .disconnect = .command cw [] ∧ cw.toNat = 0xA * 2 ^ 44) ∧
    (∃ cw, encode .sreset = .command cw [] ∧ cw.toNat = 0xB * 2 ^ 44) ∧
    (∃ cw, encode .isConnected = .command cw [] ∧ cw.toNat = 0xC * 2 ^ 44) ∧
    (∀ service characteristic payload, payload.length ≤ 255 →
      ∃ cw, encode (.send service characteristic payload) =
          .command cw (payload.map fun b => BitVec.ofNat 16 b.toNat) ∧
        cw.toNat = 0xD * 2 ^ 44 + service.toNat * 2 ^ 24 + characteristic.toNat * 2 ^ 8 + payload.length)

/-- R83 and R84 as arithmetic on the word. -/
def Obligations.EventAndRequestWordLayout : Prop :=
  encode .evConnect = .event 0x1000 [] ∧ encode .evWriteDone = .event 0x2000 [] ∧ encode .evTick = .tick ∧
    (∀ rawBytes, rawBytes.length ≤ 255 →
      ∃ ew, encode (.evMessage rawBytes) = .event ew rawBytes ∧ ew.toNat = 0x3 * 2 ^ 12 + rawBytes.length) ∧
    (∃ tw, Request.discover.portWord = .out (.request tw []) ∧ tw.toNat = 0x1 * 2 ^ 44) ∧
    (∀ peripheralId, ∃ tw, (Request.connect peripheralId).portWord = .out (.request tw []) ∧
        tw.toNat = 0x2 * 2 ^ 44 + peripheralId.toNat) ∧
    (∀ framing service characteristic payload, payload.length ≤ 255 →
      ∃ tw, (Request.write framing service characteristic payload).portWord = .out (.request tw payload) ∧
        tw.toNat = 0x3 * 2 ^ 44 + framing.toNat * 2 ^ 40 + service.toNat * 2 ^ 24 + characteristic.toNat * 2 ^ 8 +
          payload.length) ∧
    (∀ service characteristic, ∃ tw, (Request.subscribe service characteristic).portWord = .out (.request tw []) ∧
        tw.toNat = 0x4 * 2 ^ 44 + service.toNat * 2 ^ 24 + characteristic.toNat * 2 ^ 8) ∧
    (∃ tw, Request.teardown.portWord = .out (.request tw []) ∧ tw.toNat = 0x5 * 2 ^ 44) ∧
    (∀ reason, ∃ tw, (Request.linkError reason).portWord = .out (.request tw []) ∧
        tw.toNat = 0x6 * 2 ^ 44 + reason.toNat)

/-- R86, command words: which words with which streams are instructions, written on the number the word is. A word is
accepted exactly when its `op` is not reserved, `CW[43:40]` is 0, every field its format requires to be 0 is 0, its
stream has the length it announces, and every byte beat is a byte. That the decoder refuses the other words by name, and
a stream of another length than announced with them, is log entry 6. -/
def Obligations.LegalCommandWords : Prop :=
  ∀ (cw : CommandWord) (beats : List Half),
    let w := cw.toNat
    let field := fun hi lo => w / 2 ^ lo % 2 ^ (hi + 1 - lo)
    let bytes := ∀ b ∈ beats, b.toNat < 256
    (∃ i, decodeCommand cw beats = .ok i) ↔
      field 43 40 = 0 ∧
        ((field 47 44 = 0x1 ∧ field 39 32 = 0 ∧ beats.length = field 15 0 ∧ bytes) ∨
          (field 47 44 = 0x4 ∧ field 15 8 = 0 ∧ beats = []) ∨
          (field 47 44 = 0x5 ∧ beats = []) ∨
          (field 47 44 = 0x6 ∧ field 39 16 = 0 ∧ beats.length = field 15 0) ∨
          ((field 47 44 = 0x8 ∨ field 47 44 = 0xA ∨ field 47 44 = 0xB ∨ field 47 44 = 0xC) ∧ field 39 0 = 0 ∧
            beats = []) ∨
          (field 47 44 = 0x9 ∧ field 39 32 = 0 ∧ beats = []) ∨
          (field 47 44 = 0xD ∧ beats.length = field 7 0 ∧ bytes))

/-- R86, event words: accepted exactly when `EW[11:8]` is 0, the kind is one of the three, and the byte count is 0 for
an event without bytes and the number of bytes for a message. That the decoder refuses the other words by name, and a
stream of another length than announced with them, is log entry 6. -/
def Obligations.LegalEventWords : Prop :=
  ∀ (ew : EventWord) (bytes : List Byte),
    let w := ew.toNat
    (∃ i, decodeEvent ew bytes = .ok i) ↔
      w / 2 ^ 8 % 2 ^ 4 = 0 ∧
        (((w / 2 ^ 12 = 0x1 ∨ w / 2 ^ 12 = 0x2) ∧ w % 2 ^ 8 = 0 ∧ bytes = []) ∨
          (w / 2 ^ 12 = 0x3 ∧ bytes.length = w % 2 ^ 8))

/-! ## The CRC Engine -/

/-- R100, R101, R103: `CRC_COMPUTE` returns the seed for no bytes, and one more byte takes the returned value through
the update step, written on numbers with the table `T` of the instance; nothing else changes. -/
def Obligations.CrcComputeFoldsTheUpdateStep : Prop :=
  ∀ (s : State) (seed : Half),
    Answers s (exec (.crcCompute seed []) s) s.session [] [.word seed] ∧
      ∀ (bytes : List Byte) (b : Byte), ∃ acc next : Half,
        Answers s (exec (.crcCompute seed bytes) s) s.session [] [.word acc] ∧
          Answers s (exec (.crcCompute seed (bytes ++ [b])) s) s.session [] [.word next] ∧
          next.toNat =
            ((acc.toNat <<< 8) &&& 0xFFFF) ^^^
              (Config.params.crcTable (BitVec.ofNat 8 (((acc.toNat >>> 8) ^^^ b.toNat) &&& 0xFF))).toNat

/-- R104 (for a seed other than 0 the spec marks it as derived from R100): the CRC over two pieces, the value returned
for the first carried as the seed of the second. -/
def Obligations.CrcSplitsOverPieces : Prop :=
  ∀ (s t u : State) (seed : Half) (a b : List Byte), ∃ first whole : Half,
    Answers s (exec (.crcCompute seed a) s) s.session [] [.word first] ∧
      Answers t (exec (.crcCompute first b) t) t.session [] [.word whole] ∧
      Answers u (exec (.crcCompute seed (a ++ b)) u) u.session [] [.word whole]

/-- R58, R105, R118: the CRC and encoder commands are accepted in every state, return the same result in any two, and
change nothing. -/
def Obligations.PureCommandsIgnoreTheState : Prop :=
  ∀ (i : Instr),
    ((∃ seed bytes, i = .crcCompute seed bytes) ∨ (∃ d a v, i = .encByteWrite d a v) ∨
        (∃ d a v, i = .encWordWrite d a v) ∨ (∃ values, i = .encRaw values)) →
      ∃ r : Result, ∀ s : State, Answers s (exec i s) s.session [] [r]

/-! ## The Packet Encoder -/

/-- R71 and R111: the 13 bytes of a byte write, for all operands. -/
def Obligations.ByteWriteFrameBytes : Prop :=
  ∀ (s : State) (deviceId : Byte) (address : Half) (value : Byte),
    let body : List Byte :=
      [0xFF, 0xFF, 0xFD, 0x00, deviceId, 0x06, 0x00, 0x03, BitVec.ofNat 8 (address.toNat % 256),
        BitVec.ofNat 8 (address.toNat / 256), value]
    let c := computeCrc Config.params.crcTable 0 body
    Answers s (exec (.encByteWrite deviceId address value) s) s.session []
      [.bytes (body ++ [BitVec.ofNat 8 (c.toNat % 256), BitVec.ofNat 8 (c.toNat / 256)])]

/-- R72 and R112: the 14 bytes of a word write, for all operands. -/
def Obligations.WordWriteFrameBytes : Prop :=
  ∀ (s : State) (deviceId : Byte) (address : Half) (value : Half),
    let body : List Byte :=
      [0xFF, 0xFF, 0xFD, 0x00, deviceId, 0x07, 0x00, 0x03, BitVec.ofNat 8 (address.toNat % 256),
        BitVec.ofNat 8 (address.toNat / 256), BitVec.ofNat 8 (value.toNat % 256), BitVec.ofNat 8 (value.toNat / 256)]
    let c := computeCrc Config.params.crcTable 0 body
    Answers s (exec (.encWordWrite deviceId address value) s) s.session []
      [.bytes (body ++ [BitVec.ofNat 8 (c.toNat % 256), BitVec.ofNat 8 (c.toNat / 256)])]

/-- R115, with R12's `tc16` (that a negative value is laid out in two's complement is the spec's GK2; log entry 15), and
the spec's derived R117: `2n` bytes, value `k` at the offsets `2k` (high byte) and `2k + 1` (low byte), as the residue
of the value modulo 65536; nothing for no values. No `i16` is clamped or refused (R113). Integers that are no `i16`,
which no port can spell, are reduced the same way by the model's choice (log entry 17). -/
def Obligations.RawPayloadBytes : Prop :=
  ∀ (s : State) (values : List Int), ∃ out : List Byte,
    Answers s (exec (.encRaw values) s) s.session [] [.bytes out] ∧ out.length = 2 * values.length ∧
      ∀ (k : Nat) (v : Int), values[k]? = some v →
        (out[2 * k]?.map fun b => (b.toNat : Int)) = some (v % 65536 / 256) ∧
          (out[2 * k + 1]?.map fun b => (b.toNat : Int)) = some (v % 256)

/-- R73 and R114: for a payload of any length the field can hold, the frame is the payload's length plus 12, and the two
length bytes, low byte first, count the bytes that follow them. -/
def Obligations.FrameLengthFieldCounts : Prop :=
  ∀ (T : CrcTable) (deviceId : Byte) (address : Half) (payload : List Byte), payload.length + 5 < 65536 →
    let frame := frameA T deviceId address payload
    frame.length = payload.length + 12 ∧
      ∃ lo hi, frame[5]? = some lo ∧ frame[6]? = some hi ∧ lo.toNat + 256 * hi.toNat = frame.length - 7

/-- R113 and R87, in the form that no operand is lost: two encoder commands with the same bytes had the same operands.
The last clause is about negative values too, whose two's complement is general knowledge to the spec (log entry 15). -/
def Obligations.EncodersLoseNothing : Prop :=
  (∀ (T : CrcTable) d a v d' a' v', byteWriteFrame T d a v = byteWriteFrame T d' a' v' → d = d' ∧ a = a' ∧ v = v') ∧
    (∀ (T : CrcTable) d a v d' a' v', wordWriteFrame T d a v = wordWriteFrame T d' a' v' → d = d' ∧ a = a' ∧ v = v') ∧
    ∀ xs ys : List Int, (∀ v ∈ xs ++ ys, -32768 ≤ v ∧ v ≤ 32767) → rawPayload xs = rawPayload ys → xs = ys

/-! ## The commands of the Link Session -/

/-- R131: `SCAN` in every state. -/
def Obligations.ScanTearsDownThenDiscovers : Prop :=
  ∀ s : State,
    let torn : Session := { s.session with ls := .scanning, wdActive := false, wdCnt := 0 }
    match s.session.ls, Config.params.busyOnDisconnect with
    | .idle, _ => Answers s (exec .scan s) { s.session with ls := .scanning } [.discover] [.completion]
    | .disconnected, _ => Answers s (exec .scan s) { s.session with ls := .scanning } [.discover] [.completion]
    | .scanning, .runToExpiry => Answers s (exec .scan s) torn [.teardown, .discover] [.completion]
    | .connected, .runToExpiry => Answers s (exec .scan s) torn [.teardown, .discover] [.completion]
    | .scanning, .cancelAndClear =>
      Answers s (exec .scan s) { torn with busy := false, busyCnt := 0 } [.teardown, .discover] [.completion]
    | .connected, .cancelAndClear =>
      Answers s (exec .scan s) { torn with busy := false, busyCnt := 0 } [.teardown, .discover] [.completion]

/-- R132: `CONNECT` writes no field, and its request is emitted exactly when a handle exists. -/
def Obligations.ConnectAsksOnlyWithAHandle : Prop :=
  ∀ (s : State) (id : PeripheralId),
    match s.session.ls with
    | .idle => Answers s (exec (.connect id) s) s.session [] [.completion]
    | .scanning => Answers s (exec (.connect id) s) s.session [.connect id] [.completion]
    | .connected => Answers s (exec (.connect id) s) s.session [.connect id] [.completion]
    | .disconnected => Answers s (exec (.connect id) s) s.session [] [.completion]

/-- R133 and R134: `DISCONNECT` and `SRESET` in every state, under both values of `BUSY_ON_DISCONNECT`. -/
def Obligations.DisconnectAndSresetTearDown : Prop :=
  ∀ (s : State) (i : Instr) (final : LinkState),
    (i = .disconnect ∧ final = .disconnected) ∨ (i = .sreset ∧ final = .idle) →
      let torn : Session := { s.session with ls := final, wdActive := false, wdCnt := 0 }
      let out : List Request :=
        if s.session.ls = .scanning ∨ s.session.ls = .connected then [.teardown] else []
      match Config.params.busyOnDisconnect with
      | .runToExpiry => Answers s (exec i s) torn out [.completion]
      | .cancelAndClear => Answers s (exec i s) { torn with busy := false, busyCnt := 0 } out [.completion]

/-- R135: `ISCONNECTED` returns the conjunction of `CONNECTED` and the level, and writes nothing. -/
def Obligations.IsConnectedReturnsTheConjunction : Prop :=
  ∀ s : State, ∃ b : Bool,
    Answers s (exec .isConnected s) s.session [] [.bit b] ∧
      (b = true ↔ s.session.ls = .connected ∧ s.tConnected = true)

/-- R136 and R183: an eligible `SEND` closes the gate, starts the timer at `BUSY_TICKS` and is written as given;
any other leaves no trace. -/
def Obligations.SendIsWrittenOrLeavesNoTrace : Prop :=
  ∀ (s : State) (service : ServiceId) (characteristic : CharId) (payload : List Byte),
    (s.session.ls = .connected ∧ s.tConnected = true ∧ s.session.busy = false →
        Answers s (exec (.send service characteristic payload) s) { s.session with busy := true, busyCnt := 5000 }
          [.write Config.params.writeFraming service characteristic payload] [.completion]) ∧
      (s.session.ls ≠ .connected ∨ s.tConnected = false ∨ s.session.busy = true →
        Answers s (exec (.send service characteristic payload) s) s.session [] [.completion])

/-! ## The events of the Link Session -/

/-- R137: `EV_CONNECT` in every state. -/
def Obligations.EvConnectSubscribesAndArms : Prop :=
  ∀ s : State,
    let interval : BitVec 16 := match Config.params.family with | .a => 45000 | .b => 2500
    let connected : Session := { s.session with ls := .connected, wdActive := true, wdCnt := interval }
    let subscribe : Request := .subscribe Config.params.rxService Config.params.rxChar
    match s.session.ls with
    | .idle => Answers s (exec .evConnect s) s.session [] []
    | .scanning => Answers s (exec .evConnect s) connected [subscribe] []
    | .connected => Answers s (exec .evConnect s) connected [subscribe] []
    | .disconnected => Answers s (exec .evConnect s) s.session [] []

/-- R138: `EV_WRITE_DONE` is unconditional. -/
def Obligations.EvWriteDoneOpensTheGate : Prop :=
  ∀ s : State, Answers s (exec .evWriteDone s) { s.session with busy := false, busyCnt := 0 } [] []

/-- R139: `EV_MESSAGE` in every state and for either family. -/
def Obligations.EvMessageRestartsTheWatchdog : Prop :=
  ∀ (s : State) (rawBytes : List Byte),
    (s.session.ls = .connected →
        match Config.params.family with
        | .a =>
          Answers s (exec (.evMessage rawBytes) s) { s.session with wdActive := true, wdCnt := 45000 } [] []
        | .b =>
          Answers s (exec (.evMessage rawBytes) s)
            { s.session with wdActive := true, wdCnt := 2500, snap := some rawBytes } [] []) ∧
      (s.session.ls ≠ .connected → Answers s (exec (.evMessage rawBytes) s) s.session [] [])

/-- R140, R141, R181 and R182: `EV_TICK` counts both timers down as numbers; the busy timer's expiry releases the gate
and nothing else; the watchdog's expiry reports the error once and starts the next interval. -/
def Obligations.EvTickCountsBothTimers : Prop :=
  ∀ s : State, ∃ t : State,
    exec .evTick s = .next t ∧ s.SamePorts t ∧ t.results = s.results ∧
      t.session.ls = s.session.ls ∧ t.session.wdActive = s.session.wdActive ∧ t.session.snap = s.session.snap ∧
      t.session.busyCnt.toNat = s.session.busyCnt.toNat - 1 ∧
      t.session.busy = (if s.session.busyCnt.toNat = 1 then false else s.session.busy) ∧
      (if s.session.wdCnt.toNat = 1 then
          t.session.wdCnt.toNat = (match Config.params.family with | .a => 45000 | .b => 2500) ∧
            t.requests = s.requests ++ [.linkError 0x01]
        else t.session.wdCnt.toNat = s.session.wdCnt.toNat - 1 ∧ t.requests = s.requests)

/-! ## The rows of the output layers -/

/-- R84 read as R12's `emit` (the model's choice, log entry 7): each request row, run by itself, makes its request leave
and does nothing else, and the port word of that request is the row's own encoding. -/
def Obligations.RequestRowsEmit : Prop :=
  ∀ s : State,
    (Answers s (exec .tDiscover s) s.session [.discover] [] ∧ Request.discover.portWord = encode .tDiscover) ∧
      (∀ id, Answers s (exec (.tConnect id) s) s.session [.connect id] [] ∧
        (Request.connect id).portWord = encode (.tConnect id)) ∧
      (∀ framing service characteristic payload,
        Answers s (exec (.tWrite framing service characteristic payload) s) s.session
            [.write framing service characteristic payload] [] ∧
          (Request.write framing service characteristic payload).portWord =
            encode (.tWrite framing service characteristic payload)) ∧
      (∀ service characteristic,
        Answers s (exec (.tSubscribe service characteristic) s) s.session [.subscribe service characteristic] [] ∧
          (Request.subscribe service characteristic).portWord = encode (.tSubscribe service characteristic)) ∧
      (Answers s (exec .tTeardown s) s.session [.teardown] [] ∧ Request.teardown.portWord = encode .tTeardown) ∧
      ∀ reason, Answers s (exec (.tLinkError reason) s) s.session [.linkError reason] [] ∧
        (Request.linkError reason).portWord = encode (.tLinkError reason)

/-- R71, R72, R74 and R78 for the rows of the wire layer (the model's choice of port, log entry 8): a frame row, run by
itself, gives the bytes that are its encoding; `INST_WRITE` gives the byte 3, which is byte 7 of both frames. -/
def Obligations.WireRowsGiveTheirBytes : Prop :=
  ∀ (s : State) (deviceId : Byte) (address : Half) (value8 : Byte) (value16 : Half) (values : List Int),
    (∃ frame, encode (.frameAByte deviceId address value8) = .out (.frameA frame) ∧
        Answers s (exec (.frameAByte deviceId address value8) s) s.session [] [.bytes frame] ∧
        Answers s (exec (.encByteWrite deviceId address value8) s) s.session [] [.bytes frame] ∧
        frame.length = 13 ∧ frame[7]? = some 0x03) ∧
      (∃ frame, encode (.frameAWord deviceId address value16) = .out (.frameA frame) ∧
        Answers s (exec (.frameAWord deviceId address value16) s) s.session [] [.bytes frame] ∧
        Answers s (exec (.encWordWrite deviceId address value16) s) s.session [] [.bytes frame] ∧
        frame.length = 14 ∧ frame[7]? = some 0x03) ∧
      (∃ payload, encode (.frameBRaw values) = .out (.frameB payload) ∧
        Answers s (exec (.frameBRaw values) s) s.session [] [.bytes payload] ∧
        Answers s (exec (.encRaw values) s) s.session [] [.bytes payload]) ∧
      Answers s (exec .instWrite s) s.session [] [.bytes [0x03]]

/-- R74 and R87: the values 0 and 2 are named and never emitted; there is no command for them, and the model refuses
them (spec/93_implementation_defined.md U2; log entry 9). -/
def Obligations.UnusedWireInstructionsAreRefused : Prop :=
  ∀ s : State,
    exec .instNone s = .refused (.unusedWireInstruction 0) ∧ exec .instRead s = .refused (.unusedWireInstruction 2)

/-! ## Reset, ports and steps -/

/-- R37: the session right after reset, and no request issued. -/
def Obligations.ResetLeavesTheSpecsValues : Prop :=
  State.reset.session.ls.code = 0 ∧ State.reset.session.busy = false ∧ State.reset.session.busyCnt = 0 ∧
    State.reset.session.wdActive = false ∧ State.reset.session.wdCnt = 0 ∧
    State.reset.session.snapValid = false ∧ State.reset.session.snapLen = 0 ∧ State.reset.requests = []

/-- R200: when `rst` is asserted, the next step constructs the session anew whatever else is pending, emits nothing and
returns nothing; a command or event in progress is abandoned, and what was received of it is discarded. That the one in
progress is the first word at its port, with a stream still short, and that the words behind it stay, is the model's
choice (log entry 13); that the record of what has left goes on is the model's reading (log entry 25). -/
def Obligations.RstReconstructsTheSession : Prop :=
  ∀ s : State, s.rst = true → ∃ t : State,
    step s = .next t ∧ t.session = State.reset.session ∧ t.requests = s.requests ∧ t.results = s.results ∧
      (∀ cw rest, s.cwords = cw :: rest → s.cdata.length < announcedBeats cw → t.cwords = rest ∧ t.cdata = []) ∧
      (∀ ew rest, s.ewords = ew :: rest → s.edata.length < announcedBytes ew → t.ewords = rest ∧ t.edata = [])

/-- What an `RST` leaves at the ports is the model's choice (the spec speaks only of what is in progress): a command or
event that is whole, or not yet looked at, the ticks, the levels and `t_connected` stay, and the pin `rst` is handled
(log entry 13; the queue of levels is log entry 5's). The outbox and that `RST` empties it are the model's own too (log
entry 10), and so is the order counter `turn`, which `RST`, being no input that waits its turn, leaves as it is (log
entry 4). -/
def Obligations.RstKeepsWhatWaits : Prop :=
  ∀ s : State, s.rst = true → ∃ t : State,
    step s = .next t ∧ t.rst = false ∧ t.outbox = [] ∧ t.turn = s.turn ∧
      (s.cwords = [] → t.cwords = [] ∧ t.cdata = s.cdata) ∧
      (∀ cw rest, s.cwords = cw :: rest → announcedBeats cw ≤ s.cdata.length →
        t.cwords = s.cwords ∧ t.cdata = s.cdata) ∧
      (s.ewords = [] → t.ewords = [] ∧ t.edata = s.edata) ∧
      (∀ ew rest, s.ewords = ew :: rest → announcedBytes ew ≤ s.edata.length →
        t.ewords = s.ewords ∧ t.edata = s.edata) ∧
      t.ticks = s.ticks ∧ t.levels = s.levels ∧ t.tConnected = s.tConnected

/-- A step runs the decoded instruction: when the source served next is a port whose word, with exactly the stream it
announces (R82), decodes to an instruction, the step is that instruction's meaning in the state left when the word and
the stream are taken. The spec knows no outbox, and the clause about it states the model's choice (log entry 10, and 28
for decoding its words); so is the order counter `turn`, which the other three clauses advance (log entry 4). -/
def Obligations.StepRunsTheDecodedInstruction : Prop :=
  (∀ (s : State) (cw : CommandWord) (rest : List CommandWord) (i : Instr),
      pick s = some .host → s.cwords = cw :: rest →
      decode (.command cw (s.cdata.take (announcedBeats cw))) = .ok i →
      step s = exec i
        { s with cwords := rest, cdata := s.cdata.drop (announcedBeats cw), turn := s.turn + 1 }) ∧
    (∀ (s : State) (ew : EventWord) (rest : List EventWord) (i : Instr),
      pick s = some .transport → s.ewords = ew :: rest →
      decode (.event ew (s.edata.take (announcedBytes ew))) = .ok i →
      step s = exec i
        { s with ewords := rest, edata := s.edata.drop (announcedBytes ew), turn := s.turn + 1 }) ∧
    (∀ s : State, pick s = some .timeBase → s.ticks ≠ 0 →
      step s = exec .evTick { s with ticks := s.ticks - 1, turn := s.turn + 1 }) ∧
    (∀ (s : State) (w : OutWord) (rest : List OutWord) (i : Instr),
      pick s = some .outbox → s.outbox = w :: rest → decode (.out w) = .ok i →
      step s = exec i { s with outbox := rest })

/-- R86 at the machine: the step of a pending command or event word that is no instruction has no next state; it is
refused under a name (log entry 6). -/
def Obligations.StepRefusesIllegalWords : Prop :=
  (∀ (s : State) (cw : CommandWord) (rest : List CommandWord),
      pick s = some .host → s.cwords = cw :: rest →
      (¬∃ i, decode (.command cw (s.cdata.take (announcedBeats cw))) = .ok i) →
      ∃ why, step s = .refused (.illegalWord why)) ∧
    (∀ (s : State) (ew : EventWord) (rest : List EventWord),
      pick s = some .transport → s.ewords = ew :: rest →
      (¬∃ i, decode (.event ew (s.edata.take (announcedBytes ew))) = .ok i) →
      ∃ why, step s = .refused (.illegalWord why))

/-- R63, and R82 for commands: with `rst` low, the source served next is one whose input is pending, some pending source
is served when there is one, and a command whose stream is short is not pending. The rest is the model's: an event whose
bytes are short is not pending and holds up no other port (log entry 12), the levels still to be driven are a source of
their own (log entry 5), there is an outbox, here empty (log entry 10), and with nothing pending the step leaves the
machine as it is (log entry 14). -/
def Obligations.OnlyPendingInputsAreServed : Prop :=
  ∀ s : State, s.rst = false → s.outbox = [] →
    (pick s = some .host → ∃ cw rest, s.cwords = cw :: rest ∧ announcedBeats cw ≤ s.cdata.length) ∧
      (pick s = some .transport → ∃ ew rest, s.ewords = ew :: rest ∧ announcedBytes ew ≤ s.edata.length) ∧
      (pick s = some .timeBase → s.ticks ≠ 0) ∧
      (pick s = some .level → s.levels ≠ []) ∧
      pick s ≠ some .resetPin ∧ pick s ≠ some .outbox ∧
      (pick s = none ↔
        (∀ cw rest, s.cwords = cw :: rest → s.cdata.length < announcedBeats cw) ∧
          (∀ ew rest, s.ewords = ew :: rest → s.edata.length < announcedBytes ew) ∧ s.ticks = 0 ∧ s.levels = []) ∧
      (pick s = none → step s = .next s)

/-- R35: a level of `t_connected` driven by the transport changes the pin and nothing of the block. The queue the level
is taken from is the model's form of the pin (log entry 5), and the order counter `turn`, which the step advances, is
the model's own (log entry 4). -/
def Obligations.LevelsChangeOnlyThePin : Prop :=
  ∀ (s : State) (level : Bool) (rest : List Bool), pick s = some .level → s.levels = level :: rest →
    step s = .next { s with tConnected := level, levels := rest, turn := s.turn + 1 }

/-- The host's place for a table word (the model's choice: log entries 14 and 18; 10 and 28 for the rows of the output
layers, which run from the outbox): whatever the decoder reads from a table word is what the very next step runs, and
until it runs the session and the outputs are as they were. -/
def Obligations.PlacedTableWordRunsNext : Prop :=
  ∀ (s : State) (nbits w : Nat) (i : Instr), decodeTableWord nbits w = some i →
    ∃ t : State, step (s.withFetchWord nbits w) = exec i t ∧ t.session = s.session ∧ t.requests = s.requests ∧
      t.results = s.results ∧ t.tConnected = s.tConnected

/-- R180 and R219, under the duties of R216 and R217: while the neighbours hand over legal words the block never halts,
and what is left at the ports after a step is legal again. What a step does where the spec is silent is the model's: the
outbox, here empty (log entry 10), an event still short of its bytes waits (log entry 12), `RST` leaves what is not in
progress (log entry 13), a step with nothing pending changes nothing (log entry 14), and a level waits in a queue (log
entry 5). -/
def Obligations.LegalPortsNeverStopTheBlock : Prop :=
  ∀ s : State, s.PortsLegal → ∃ t : State, step s = .next t ∧ t.PortsLegal

/-! ## Invariants and rules of the whole machine -/

/-- The invariants R38, which the spec marks as derived from its other rules, hold right after reset. -/
def Obligations.InvariantHoldsAtReset : Prop := State.reset.Inv

/-- Every step keeps the invariants R38 (which the spec marks as derived), from every state that has them. -/
def Obligations.StepKeepsTheInvariant : Prop :=
  ∀ s t : State, s.Inv → step s = .next t → t.Inv

/-- R38 (which the spec marks as derived): its five clauses hold in every state reachable from reset, whatever the
neighbours do at the input ports and the pins between steps. The ports and the pins are the model's form of them (log
entries 1 and 5), and the neighbours' duties are not assumed (log entry 21). The outbox and the order counter are the
model's own (log entries 10 and 4), and no neighbour changes them. -/
def Obligations.InvariantHoldsWhenReachable : Prop :=
  ∀ s : State, Reachable s → s.Inv

/-- R62, over the model's record of what has left (log entry 1): a step takes back no request and no result; what it
adds stands behind what has left before. That the record goes on through `RST` is the model's reading (log entry 25). -/
def Obligations.OutputsOnlyGrow : Prop :=
  ∀ s t : State, step s = .next t → s.requests <+: t.requests ∧ s.results <+: t.results

/-- R151 and the `ls` columns of R142, both marked as derived by the spec: the inputs that write `ls`, and what they
write. The rows of the output layers write nothing of the session, by the model's choice of what they do when run by
themselves (log entries 7 and 8). -/
def Obligations.OnlyFourInputsWriteTheLinkState : Prop :=
  ∀ (i : Instr) (s t : State), exec i s = .next t →
    t.session.ls =
      (if i = .scan then .scanning
        else if i = .disconnect then .disconnected
        else if i = .sreset then .idle
        else if i = .evConnect ∧ (s.session.ls = .scanning ∨ s.session.ls = .connected) then .connected
        else s.session.ls)

/-- What R131 to R141 say together (the spec's derived table R142): what an input can make leave. A write comes from an
eligible `SEND` alone, a link error from the tick that takes the watchdog's count from 1, a teardown from one of three
commands with a handle, a discovery from `SCAN`, a connection request from `CONNECT` with a handle, a subscription from
`EV_CONNECT` with a handle. -/
def Obligations.RequestsComeFromTheirInputsAlone : Prop :=
  ∀ (i : Instr) (s t : State), i.isInput = true → exec i s = .next t →
    ∃ out, t.requests = s.requests ++ out ∧
      ∀ r ∈ out,
        match r with
        | .write framing service characteristic payload =>
          i = .send service characteristic payload ∧ framing = Config.params.writeFraming ∧
            s.session.ls = .connected ∧ s.tConnected = true ∧ s.session.busy = false
        | .linkError reason => i = .evTick ∧ reason = 0x01 ∧ s.session.wdCnt = 1
        | .teardown =>
          (i = .scan ∨ i = .disconnect ∨ i = .sreset) ∧ (s.session.ls = .scanning ∨ s.session.ls = .connected)
        | .discover => i = .scan
        | .connect id => i = .connect id ∧ (s.session.ls = .scanning ∨ s.session.ls = .connected)
        | .subscribe service characteristic =>
          i = .evConnect ∧ service = Config.params.rxService ∧ characteristic = Config.params.rxChar ∧
            (s.session.ls = .scanning ∨ s.session.ls = .connected)

/-- R27: the snapshot is written only by a message in `CONNECTED` of a family-B instance, with the message's bytes, and
cleared only by `RST`. -/
def Obligations.OnlyMessagesWriteTheSnapshot : Prop :=
  (∀ (i : Instr) (s t : State), exec i s = .next t →
      t.session.snap =
        match i with
        | .evMessage rawBytes =>
          if s.session.ls = .connected ∧ Config.params.family = .b then some rawBytes else s.session.snap
        | _ => s.session.snap) ∧
    ∀ s t : State, step s = .next t → t.session.snap = none → s.session.snap = none ∨ s.rst = true

/-- R28: the "is moving" view is the byte at `MOVING_IDX` of a family-B snapshot that holds one, else absent. -/
def Obligations.MovingStatusIsAView : Prop :=
  ∀ (p : Params) (s : Session) (b : Byte),
    s.movingStatus p = some b ↔
      p.family = .b ∧ ∃ bytes, s.snap = some bytes ∧ ∃ h : p.movingIdx < bytes.length, bytes[p.movingIdx] = b

/-- R11: `exec` is the step model's `step(cfg, s, in)`, with the state record, the request port and the result port of
the machine around it; it reads of the machine nothing but the session and the level. The ports as plain data and the
pin are the model's form of them (log entries 1 and 5). -/
def Obligations.ExecIsTheStepModel : Prop :=
  ∀ (i : Instr) (s : State), i.isInput = true →
    ∃ r : Reaction, reaction Config.params s.tConnected s.session i = some r ∧
      Answers s (exec i s) r.session r.out r.res.toList

/-- R145 and R118: two instances that differ in the family alone react to every input with the same requests, the same
result and the same session but for the watchdog's count and the snapshot, and only `EV_CONNECT`, `EV_MESSAGE` and
`EV_TICK` make even that difference. -/
def Obligations.FamilyChangesWatchdogAndSnapshotOnly : Prop :=
  ∀ (p : Params) (f : Family) (level : Bool) (s : Session) (i : Instr) (r q : Reaction),
    reaction p level s i = some r → reaction { p with family := f } level s i = some q →
      q.out = r.out ∧ q.res = r.res ∧ q.session.ls = r.session.ls ∧ q.session.busy = r.session.busy ∧
        q.session.busyCnt = r.session.busyCnt ∧ q.session.wdActive = r.session.wdActive ∧
        (i ≠ .evConnect → i ≠ .evTick → isMessage i = false → q.session = r.session)

/-- R40 (which the spec marks as derived): `IDLE` and `DISCONNECTED` are observationally the same. Two machines that
differ in which of the two they are in answer every sequence of inputs with the same requests and the same results, and
still differ in that alone. -/
def Obligations.IdleAndDisconnectedLookAlike : Prop :=
  ∀ (xs : List Stimulus) (s t s' : State), (∀ x ∈ xs, x.input.isInput = true) →
    s.session.Alike t.session → t = { s with session := t.session } → runInputs xs s = .next s' →
    ∃ t' : State, runInputs xs t = .next t' ∧ s'.session.Alike t'.session ∧ t' = { s' with session := t'.session }

/-! ## The busy gate and the watchdog over runs -/

/-- R146 (which the spec marks as derived from R136), and what R65 means by single-slot: the gate is shut until the
timer or a completion opens it: from an eligible state the first `SEND` is written, and through any inputs with fewer
than `BUSY_TICKS` ticks and no completion (and, under `CANCEL_AND_CLEAR`, no teardown) the gate stays shut, the timer
shows the ticks that are left, and no other `SEND` is written. Both values of `BUSY_ON_DISCONNECT` are kept open (log
entry 3). -/
def Obligations.BusyGateAdmitsOneWrite : Prop :=
  ∀ (s : State) (service : ServiceId) (characteristic : CharId) (payload : List Byte) (xs : List Stimulus),
    s.session.ls = .connected → s.session.busy = false →
    (∀ x ∈ xs, x.input.isInput = true ∧ x.input ≠ .evWriteDone ∧
      (isTeardown x.input = true → Config.params.busyOnDisconnect = .runToExpiry)) →
    tickCount xs < 5000 →
    ∃ t : State, runInputs (⟨true, .send service characteristic payload⟩ :: xs) s = .next t ∧
      t.session.busy = true ∧ t.session.busyCnt.toNat = 5000 - tickCount xs ∧
      writesOf t.requests =
        writesOf s.requests ++ [.write Config.params.writeFraming service characteristic payload]

/-- R148 (which the spec marks as derived from R136 and R140): after an accepted `SEND`, `BUSY_TICKS` ticks among any
other inputs and no completion, the last of them a tick, the gate is open; if the session is connected and the transport
says so, the next `SEND` is written. Both values of `BUSY_ON_DISCONNECT` are kept open (log entry 3). -/
def Obligations.BusyTimeoutReopensTheGate : Prop :=
  ∀ (s : State) (first second : ServiceId × CharId × List Byte) (xs : List Stimulus) (level : Bool),
    s.session.ls = .connected → s.session.busy = false →
    (∀ x ∈ xs, x.input.isInput = true ∧ x.input ≠ .evWriteDone ∧
      (isTeardown x.input = true → Config.params.busyOnDisconnect = .runToExpiry)) →
    tickCount xs = 4999 →
    ∃ t : State,
      runInputs (⟨true, .send first.1 first.2.1 first.2.2⟩ :: xs ++ [⟨level, .evTick⟩]) s = .next t ∧
        t.session.busy = false ∧ t.session.busyCnt = 0 ∧
        (t.session.ls = .connected → ∃ u : State,
          runInputs [⟨true, .send second.1 second.2.1 second.2.2⟩] t = .next u ∧
            u.requests = t.requests ++ [.write Config.params.writeFraming second.1 second.2.1 second.2.2] ∧
            u.session.busy = true)

/-- R149 (which the spec marks as derived from R136 and R138): D00's scenario. Only A and C reach the transport; B is
dropped, whatever ticks (fewer than `BUSY_TICKS`) pass between A and B. -/
def Obligations.OnlyAAndCReachTheTransport : Prop :=
  ∀ (s : State) (a b c : ServiceId × CharId × List Byte) (k : Nat),
    s.session.ls = .connected → s.session.busy = false → k < 5000 →
    ∃ t : State,
      runInputs (⟨true, .send a.1 a.2.1 a.2.2⟩ :: tickRun true k ++
        [⟨true, .send b.1 b.2.1 b.2.2⟩, ⟨true, .evWriteDone⟩, ⟨true, .send c.1 c.2.1 c.2.2⟩]) s = .next t ∧
      writesOf t.requests = writesOf s.requests ++
        [.write Config.params.writeFraming a.1 a.2.1 a.2.2, .write Config.params.writeFraming c.1 c.2.1 c.2.2] ∧
      t.session.busy = true ∧ t.session.busyCnt.toNat = 5000 ∧ t.session.ls = .connected

/-- R206 and R207 (which the spec marks as derived): completions carry no identity. The completion of a timed-out write
A releases the gate of the newer write C, and D is written while C is in flight. The transport's duties about late
events are not assumed (log entry 21). -/
def Obligations.LateCompletionReleasesTheNewerGate : Prop :=
  ∀ (s : State) (a c d : ServiceId × CharId × List Byte),
    s.session.ls = .connected → s.session.busy = false →
    ∃ t : State,
      runInputs (⟨true, .send a.1 a.2.1 a.2.2⟩ :: tickRun true 5000 ++
        [⟨true, .send c.1 c.2.1 c.2.2⟩, ⟨true, .evWriteDone⟩, ⟨true, .send d.1 d.2.1 d.2.2⟩]) s = .next t ∧
      writesOf t.requests = writesOf s.requests ++
        [.write Config.params.writeFraming a.1 a.2.1 a.2.2, .write Config.params.writeFraming c.1 c.2.1 c.2.2,
          .write Config.params.writeFraming d.1 d.2.1 d.2.2]

/-- R208 (which the spec marks as derived): under `RUN_TO_EXPIRY` a teardown leaves the gate and its timer as they are,
so that a session that reconnects at once is connected and busy; under `CANCEL_AND_CLEAR` it is connected with the gate
open. Both values of `BUSY_ON_DISCONNECT` are kept open (log entry 3). -/
def Obligations.GateAcrossAReconnect : Prop :=
  ∀ (s : State) (level : Bool) (id : PeripheralId) (i : Instr),
    s.session.ls = .connected → (i = .disconnect ∨ i = .sreset) →
    ∃ t : State,
      runInputs [⟨level, i⟩, ⟨level, .scan⟩, ⟨level, .connect id⟩, ⟨level, .evConnect⟩] s = .next t ∧
        t.session.ls = .connected ∧
        t.requests = s.requests ++ [.teardown, .discover, .connect id,
          .subscribe Config.params.rxService Config.params.rxChar] ∧
        match Config.params.busyOnDisconnect with
        | .runToExpiry => t.session.busy = s.session.busy ∧ t.session.busyCnt = s.session.busyCnt
        | .cancelAndClear => t.session.busy = false ∧ t.session.busyCnt = 0

/-- R141: "If in every run of `WD_TICKS` consecutive ticks at least one `EV_MESSAGE` is handled, the watchdog never
fires": from a session just armed, through any inputs. -/
def Obligations.FedWatchdogNeverFires : Prop :=
  ∀ (s : State) (xs : List Stimulus),
    s.session.ls = .connected → s.session.wdCnt = wdLoad Config.params →
    (∀ x ∈ xs, x.input.isInput = true) → FedWithin (Config.wdTicks Config.params.family) 0 xs →
    ∃ t : State, runInputs xs s = .next t ∧ linkErrorsOf t.requests = linkErrorsOf s.requests

/-- R141, R181 and R210: with nothing but ticks, a session just armed reports the link error on every `WD_TICKS`-th tick
and on no other, stays connected, and starts the next interval each time. -/
def Obligations.UnfedWatchdogFiresEveryInterval : Prop :=
  ∀ (s : State) (level : Bool) (k j : Nat),
    s.session.wdCnt = wdLoad Config.params → j < Config.wdTicks Config.params.family →
    ∃ t : State, runInputs (tickRun level (k * Config.wdTicks Config.params.family + j)) s = .next t ∧
      t.requests = s.requests ++ List.replicate k (.linkError Config.reasonDataStopped) ∧
      t.session.wdCnt.toNat = Config.wdTicks Config.params.family - j ∧ t.session.ls = s.session.ls ∧
      t.session.wdActive = s.session.wdActive

/-- R64: after `DISCONNECT` or `SRESET` the watchdog cannot fire until the next `EV_CONNECT`. -/
def Obligations.NoLinkErrorAfterTeardown : Prop :=
  ∀ (s : State) (level : Bool) (i : Instr) (xs : List Stimulus),
    (i = .disconnect ∨ i = .sreset) → (∀ x ∈ xs, x.input.isInput = true ∧ x.input ≠ .evConnect) →
    ∃ t : State, runInputs (⟨level, i⟩ :: xs) s = .next t ∧
      linkErrorsOf t.requests = linkErrorsOf s.requests ∧ t.session.wdCnt = 0

/-! ## The caller's transforms -/

/-- R89: the two expansions the caller does before an encoder is called. Of a sum that is no `u16` nothing is said: R89
leaves the range to the caller (log entry 24). -/
def Obligations.CallerTransformsExpand : Prop :=
  (∀ (d : Byte) (a : Half) (magnitude : Nat),
      (magnitude < 65536 → ∃ v : Half, encWordWriteDir d a false magnitude = some (.encWordWrite d a v) ∧
        v.toNat = magnitude) ∧
      (1023 + magnitude < 65536 → ∃ v : Half, encWordWriteDir d a true magnitude = some (.encWordWrite d a v) ∧
        v.toNat = 1023 + magnitude)) ∧
    ∀ v : Int, -300 ≤ clamp300 v ∧ clamp300 v ≤ 300 ∧ (-300 ≤ v → v ≤ 300 → clamp300 v = v) ∧
      (v < -300 → clamp300 v = -300) ∧ (300 < v → clamp300 v = 300)
end

