-- ==== Sys2Proof/Laws/State.lean ====
section
/-! SUPPORT. One lemma per field per update of the machine and of the session, true by definition, so that no later proof
unfolds a record update; and what the three ways of answering leave alone. -/

namespace Sys2Proof.Machine

/-! ## The machine -/

@[simp] theorem State.commit_session (s : State) (r : Reaction) : (s.commit r).session = r.session := rfl
@[simp] theorem State.commit_rst (s : State) (r : Reaction) : (s.commit r).rst = s.rst := rfl
@[simp] theorem State.commit_cwords (s : State) (r : Reaction) : (s.commit r).cwords = s.cwords := rfl
@[simp] theorem State.commit_cdata (s : State) (r : Reaction) : (s.commit r).cdata = s.cdata := rfl
@[simp] theorem State.commit_ewords (s : State) (r : Reaction) : (s.commit r).ewords = s.ewords := rfl
@[simp] theorem State.commit_edata (s : State) (r : Reaction) : (s.commit r).edata = s.edata := rfl
@[simp] theorem State.commit_ticks (s : State) (r : Reaction) : (s.commit r).ticks = s.ticks := rfl
@[simp] theorem State.commit_tConnected (s : State) (r : Reaction) : (s.commit r).tConnected = s.tConnected := rfl
@[simp] theorem State.commit_levels (s : State) (r : Reaction) : (s.commit r).levels = s.levels := rfl
@[simp] theorem State.commit_outbox (s : State) (r : Reaction) : (s.commit r).outbox = s.outbox := rfl
@[simp] theorem State.commit_turn (s : State) (r : Reaction) : (s.commit r).turn = s.turn := rfl
@[simp] theorem State.commit_requests (s : State) (r : Reaction) : (s.commit r).requests = s.requests ++ r.out := rfl
@[simp] theorem State.commit_results (s : State) (r : Reaction) : (s.commit r).results = s.results ++ r.res.toList := rfl

@[simp] theorem State.emit_session (s : State) (r : Request) : (s.emit r).session = s.session := rfl
@[simp] theorem State.emit_rst (s : State) (r : Request) : (s.emit r).rst = s.rst := rfl
@[simp] theorem State.emit_cwords (s : State) (r : Request) : (s.emit r).cwords = s.cwords := rfl
@[simp] theorem State.emit_cdata (s : State) (r : Request) : (s.emit r).cdata = s.cdata := rfl
@[simp] theorem State.emit_ewords (s : State) (r : Request) : (s.emit r).ewords = s.ewords := rfl
@[simp] theorem State.emit_edata (s : State) (r : Request) : (s.emit r).edata = s.edata := rfl
@[simp] theorem State.emit_ticks (s : State) (r : Request) : (s.emit r).ticks = s.ticks := rfl
@[simp] theorem State.emit_tConnected (s : State) (r : Request) : (s.emit r).tConnected = s.tConnected := rfl
@[simp] theorem State.emit_levels (s : State) (r : Request) : (s.emit r).levels = s.levels := rfl
@[simp] theorem State.emit_outbox (s : State) (r : Request) : (s.emit r).outbox = s.outbox := rfl
@[simp] theorem State.emit_turn (s : State) (r : Request) : (s.emit r).turn = s.turn := rfl
@[simp] theorem State.emit_requests (s : State) (r : Request) : (s.emit r).requests = s.requests ++ [r] := rfl
@[simp] theorem State.emit_results (s : State) (r : Request) : (s.emit r).results = s.results := rfl

@[simp] theorem State.returnResult_session (s : State) (r : Result) : (s.returnResult r).session = s.session := rfl
@[simp] theorem State.returnResult_rst (s : State) (r : Result) : (s.returnResult r).rst = s.rst := rfl
@[simp] theorem State.returnResult_cwords (s : State) (r : Result) : (s.returnResult r).cwords = s.cwords := rfl
@[simp] theorem State.returnResult_cdata (s : State) (r : Result) : (s.returnResult r).cdata = s.cdata := rfl
@[simp] theorem State.returnResult_ewords (s : State) (r : Result) : (s.returnResult r).ewords = s.ewords := rfl
@[simp] theorem State.returnResult_edata (s : State) (r : Result) : (s.returnResult r).edata = s.edata := rfl
@[simp] theorem State.returnResult_ticks (s : State) (r : Result) : (s.returnResult r).ticks = s.ticks := rfl
@[simp] theorem State.returnResult_tConnected (s : State) (r : Result) : (s.returnResult r).tConnected = s.tConnected := rfl
@[simp] theorem State.returnResult_levels (s : State) (r : Result) : (s.returnResult r).levels = s.levels := rfl
@[simp] theorem State.returnResult_outbox (s : State) (r : Result) : (s.returnResult r).outbox = s.outbox := rfl
@[simp] theorem State.returnResult_turn (s : State) (r : Result) : (s.returnResult r).turn = s.turn := rfl
@[simp] theorem State.returnResult_requests (s : State) (r : Result) : (s.returnResult r).requests = s.requests := rfl
@[simp] theorem State.returnResult_results (s : State) (r : Result) : (s.returnResult r).results = s.results ++ [r] := rfl

theorem State.commit_samePorts (s : State) (r : Reaction) : s.SamePorts (s.commit r) :=
  ⟨rfl, rfl, rfl, rfl, rfl, rfl, rfl, rfl, rfl, rfl⟩

theorem State.emit_samePorts (s : State) (r : Request) : s.SamePorts (s.emit r) :=
  ⟨rfl, rfl, rfl, rfl, rfl, rfl, rfl, rfl, rfl, rfl⟩

theorem State.returnResult_samePorts (s : State) (r : Result) : s.SamePorts (s.returnResult r) :=
  ⟨rfl, rfl, rfl, rfl, rfl, rfl, rfl, rfl, rfl, rfl⟩

theorem answers_commit (s : State) (r : Reaction) :
    Answers s (.next (s.commit r)) r.session r.out r.res.toList :=
  ⟨_, rfl, rfl, rfl, rfl, s.commit_samePorts r⟩

theorem answers_emit (s : State) (r : Request) : Answers s (.next (s.emit r)) s.session [r] [] :=
  ⟨_, rfl, rfl, rfl, (List.append_nil _).symm, s.emit_samePorts r⟩

theorem answers_return (s : State) (r : Result) : Answers s (.next (s.returnResult r)) s.session [] [r] :=
  ⟨_, rfl, rfl, (List.append_nil _).symm, rfl, s.returnResult_samePorts r⟩

/-- A result with no other effect is the reaction of a pure command (R118). -/
theorem State.returnResult_eq_commit (s : State) (r : Result) :
    s.returnResult r = s.commit ⟨s.session, [], some r⟩ := by
  simp [State.returnResult, State.commit]

/-! ## The session -/

@[simp] theorem Session.armWd_ls (p : Params) (s : Session) : (s.armWd p).ls = s.ls := rfl
@[simp] theorem Session.armWd_busy (p : Params) (s : Session) : (s.armWd p).busy = s.busy := rfl
@[simp] theorem Session.armWd_busyCnt (p : Params) (s : Session) : (s.armWd p).busyCnt = s.busyCnt := rfl
@[simp] theorem Session.armWd_wdActive (p : Params) (s : Session) : (s.armWd p).wdActive = true := rfl
@[simp] theorem Session.armWd_wdCnt (p : Params) (s : Session) : (s.armWd p).wdCnt = wdLoad p := rfl
@[simp] theorem Session.armWd_snap (p : Params) (s : Session) : (s.armWd p).snap = s.snap := rfl

@[simp] theorem Session.cancelWd_ls (s : Session) : (s.cancelWd).ls = s.ls := rfl
@[simp] theorem Session.cancelWd_busy (s : Session) : (s.cancelWd).busy = s.busy := rfl
@[simp] theorem Session.cancelWd_busyCnt (s : Session) : (s.cancelWd).busyCnt = s.busyCnt := rfl
@[simp] theorem Session.cancelWd_wdActive (s : Session) : (s.cancelWd).wdActive = false := rfl
@[simp] theorem Session.cancelWd_wdCnt (s : Session) : (s.cancelWd).wdCnt = 0 := rfl
@[simp] theorem Session.cancelWd_snap (s : Session) : (s.cancelWd).snap = s.snap := rfl

@[simp] theorem Session.closeGate_ls (s : Session) : (s.closeGate).ls = s.ls := rfl
@[simp] theorem Session.closeGate_busy (s : Session) : (s.closeGate).busy = true := rfl
@[simp] theorem Session.closeGate_busyCnt (s : Session) : (s.closeGate).busyCnt = busyLoad := rfl
@[simp] theorem Session.closeGate_wdActive (s : Session) : (s.closeGate).wdActive = s.wdActive := rfl
@[simp] theorem Session.closeGate_wdCnt (s : Session) : (s.closeGate).wdCnt = s.wdCnt := rfl
@[simp] theorem Session.closeGate_snap (s : Session) : (s.closeGate).snap = s.snap := rfl

@[simp] theorem Session.openGate_ls (s : Session) : (s.openGate).ls = s.ls := rfl
@[simp] theorem Session.openGate_busy (s : Session) : (s.openGate).busy = false := rfl
@[simp] theorem Session.openGate_busyCnt (s : Session) : (s.openGate).busyCnt = 0 := rfl
@[simp] theorem Session.openGate_wdActive (s : Session) : (s.openGate).wdActive = s.wdActive := rfl
@[simp] theorem Session.openGate_wdCnt (s : Session) : (s.openGate).wdCnt = s.wdCnt := rfl
@[simp] theorem Session.openGate_snap (s : Session) : (s.openGate).snap = s.snap := rfl

end Sys2Proof.Machine
end

