-- ==== Sys2Proof/Laws/Words.lean ====
section
/-! SUPPORT. Port words as numbers: every word the encoder builds is a sum of its fields at their places, and every field
the decoder reads is a quotient and a remainder, so that facts about encodings are linear arithmetic. -/

namespace Sys2Proof.Machine

/-! ## Fields -/

theorem toNat_append_add {n m : Nat} (x : BitVec n) (y : BitVec m) :
    (x ++ y).toNat = x.toNat * 2 ^ m + y.toNat := by
  rw [BitVec.toNat_append, ← Nat.shiftLeft_add_eq_or_of_lt y.isLt, Nat.shiftLeft_eq]

theorem toNat_field {n : Nat} (w : BitVec n) (lo len : Nat) :
    (w.extractLsb' lo len).toNat = w.toNat / 2 ^ lo % 2 ^ len := by
  rw [BitVec.extractLsb'_toNat, Nat.shiftRight_eq_div_pow]

theorem field_eq_zero {n : Nat} (w : BitVec n) (lo len : Nat) :
    w.extractLsb' lo len = 0 ↔ w.toNat / 2 ^ lo % 2 ^ len = 0 := by
  rw [← toNat_field, ← BitVec.toNat_inj]; simp

theorem lo8_toNat (v : Half) : (lo8 v).toNat = v.toNat % 256 := by
  rw [lo8, toNat_field]; omega

theorem hi8_toNat (v : Half) : (hi8 v).toNat = v.toNat / 256 := by
  rw [hi8, toNat_field]; omega

theorem half_toNat (hi lo : Byte) : (half hi lo).toNat = hi.toNat * 256 + lo.toNat := by
  rw [half, toNat_append_add]; omega

@[simp] theorem lo8_half (hi lo : Byte) : lo8 (half hi lo) = lo := by
  apply BitVec.eq_of_toNat_eq; rw [lo8_toNat, half_toNat]; omega

@[simp] theorem hi8_half (hi lo : Byte) : hi8 (half hi lo) = hi := by
  apply BitVec.eq_of_toNat_eq; rw [hi8_toNat, half_toNat]; omega

@[simp] theorem half_hi8_lo8 (v : Half) : half (hi8 v) (lo8 v) = v := by
  apply BitVec.eq_of_toNat_eq; rw [half_toNat, hi8_toNat, lo8_toNat]; omega

theorem lo8_eq_ofNat (v : Half) : lo8 v = BitVec.ofNat 8 (v.toNat % 256) := by
  apply BitVec.eq_of_toNat_eq; rw [lo8_toNat, BitVec.toNat_ofNat]; omega

theorem hi8_eq_ofNat (v : Half) : hi8 v = BitVec.ofNat 8 (v.toNat / 256) := by
  apply BitVec.eq_of_toNat_eq; rw [hi8_toNat, BitVec.toNat_ofNat]; omega

theorem hi8_eq_zero (v : Half) : hi8 v = 0 ↔ v.toNat < 256 := by
  rw [← BitVec.toNat_inj, hi8_toNat]; simp

theorem le16_inj (v w : Half) : le16 v = le16 w ↔ v = w := by
  refine ⟨fun h => ?_, fun h => h ▸ rfl⟩
  simp only [le16, List.cons.injEq, and_true] at h
  rw [← half_hi8_lo8 v, h.1, h.2, half_hi8_lo8]

theorem be16_inj (v w : Half) : be16 v = be16 w ↔ v = w := by
  refine ⟨fun h => ?_, fun h => h ▸ rfl⟩
  simp only [be16, List.cons.injEq, and_true] at h
  rw [← half_hi8_lo8 v, h.1, h.2, half_hi8_lo8]

/-! ## Signed values -/

theorem isI16_iff (v : Int) : isI16 v = true ↔ -32768 ≤ v ∧ v ≤ 32767 := by simp [isI16]

theorem ofTc16_tc16 (v : Int) (h : isI16 v = true) : ofTc16 (tc16 v) = v := by
  rw [isI16_iff] at h
  rw [ofTc16, tc16, BitVec.toInt_ofInt, Int.bmod_def]; omega

@[simp] theorem tc16_ofTc16 (w : Half) : tc16 (ofTc16 w) = w := BitVec.ofInt_toInt

theorem isI16_ofTc16 (w : Half) : isI16 (ofTc16 w) = true := by
  have h₁ := BitVec.toInt_lt (x := w)
  have h₂ := BitVec.le_toInt (x := w)
  rw [isI16_iff, ofTc16]; omega

theorem tc16_toNat (v : Int) : ((tc16 v).toNat : Int) = v % 65536 := by
  rw [tc16, BitVec.toNat_ofInt]; omega

theorem rawValuesOk_iff {values : List Int} :
    rawValuesOk values = true ↔ values.length ≤ Config.rawLenMax ∧ values.all isI16 = true := by
  rw [rawValuesOk, Bool.and_eq_true, decide_eq_true_iff]

/-! ## The bytes the CRC of a frame covers -/

theorem lengthField_byte : le16 (lengthField 1) = [0x06, 0x00] := by decide

theorem lengthField_word : le16 (lengthField 2) = [0x07, 0x00] := by decide

theorem frameBody_byte (deviceId : Byte) (address : Half) (value : Byte) :
    frameBody deviceId address [value] =
      [0xFF, 0xFF, 0xFD, 0x00, deviceId, 0x06, 0x00, 0x03, lo8 address, hi8 address, value] := by
  rw [frameBody, List.length_singleton, lengthField_byte]; rfl

theorem frameBody_word (deviceId : Byte) (address : Half) (value : Half) :
    frameBody deviceId address (le16 value) =
      [0xFF, 0xFF, 0xFD, 0x00, deviceId, 0x07, 0x00, 0x03, lo8 address, hi8 address, lo8 value, hi8 value] := by
  have h : (le16 value).length = 2 := rfl
  rw [frameBody, h, lengthField_word]; rfl

/-! ## The words of the encoder -/

theorem commandWord_toNat (op : CommandOp) (b39 : Byte) (h31 : Half) (b15 b7 : Byte) :
    (commandWord op b39 h31 b15 b7).toNat =
      op.code.toNat * 2 ^ 44 + b39.toNat * 2 ^ 32 + h31.toNat * 2 ^ 16 + b15.toNat * 2 ^ 8 + b7.toNat := by
  simp only [commandWord, toNat_append_add]; simp; omega

theorem commandWord40_toNat (op : CommandOp) (low : BitVec 40) :
    (commandWord40 op low).toNat = op.code.toNat * 2 ^ 44 + low.toNat := by
  simp only [commandWord40, toNat_append_add]; simp; omega

theorem eventWord_toNat (code : BitVec 4) (n : Byte) :
    (eventWord code n).toNat = code.toNat * 2 ^ 12 + n.toNat := by
  simp only [eventWord, toNat_append_add]; simp; omega

theorem requestWord_toNat (code : BitVec 4) (framing : Bool) (low : BitVec 40) :
    (requestWord code framing low).toNat = code.toNat * 2 ^ 44 + framing.toNat * 2 ^ 40 + low.toNat := by
  simp only [requestWord, toNat_append_add]; simp; omega

theorem pairField_toNat (service : ServiceId) (characteristic : CharId) (low : Byte) :
    (pairField service characteristic low).toNat =
      service.toNat * 2 ^ 24 + characteristic.toNat * 2 ^ 8 + low.toNat := by
  simp only [pairField, toNat_append_add]; omega

/-! ## Codes -/

@[simp] theorem CommandOp.ofCode_code (op : CommandOp) : CommandOp.ofCode op.code = some op := by
  cases op <;> rfl

theorem CommandOp.code_of_ofCode (c : BitVec 4) (op : CommandOp) (h : CommandOp.ofCode c = some op) :
    op.code = c := by
  revert c; cases op <;> decide

/-! ## Streams -/

theorem byteStream_ok (n : Nat) (beats : List Half) (bytes : List Byte) :
    byteStream n beats = .ok bytes ↔ beats.length = n ∧ beats = bytes.map byteBeat := by
  unfold byteStream
  constructor
  · intro h
    split at h
    · split at h
      · rename_i hn hb
        cases h
        refine ⟨hn, ?_⟩
        rw [List.map_map]
        refine (List.map_id _).symm.trans (List.map_congr_left fun b hm => ?_)
        have hz : hi8 b = 0 := by simpa using List.all_eq_true.1 hb b hm
        simp only [Function.comp, byteBeat, id_eq]
        rw [← hz, half_hi8_lo8]
      · cases h
    · cases h
  · rintro ⟨hn, rfl⟩
    rw [if_pos hn, if_pos (by simp [byteBeat]), List.map_map]
    congr 1
    refine (List.map_congr_left fun b _ => ?_).trans (List.map_id _)
    simp [byteBeat]

theorem valueStream_ok (n : Nat) (beats : List Half) (values : List Int) :
    valueStream n beats = .ok values ↔ beats.length = n ∧ beats.map ofTc16 = values := by
  unfold valueStream; split <;> simp [*]

theorem map_ofTc16_map_tc16 (values : List Int) (h : values.all isI16 = true) :
    (values.map tc16).map ofTc16 = values := by
  rw [List.map_map]
  refine (List.map_congr_left fun v hv => ?_).trans (List.map_id _)
  exact ofTc16_tc16 v (List.all_eq_true.1 h v hv)

theorem rawValues_rawPayload (values : List Int) (h : values.all isI16 = true) :
    rawValues (rawPayload values) = some values := by
  induction values with
  | nil => rfl
  | cons v vs ih =>
    rw [List.all_cons, Bool.and_eq_true] at h
    have hs : rawPayload (v :: vs) = hi8 (tc16 v) :: lo8 (tc16 v) :: rawPayload vs := rfl
    rw [hs, rawValues, ih h.2, half_hi8_lo8, ofTc16_tc16 v h.1]; rfl

theorem rawPayload_of_rawValues (bytes : List Byte) :
    ∀ values, rawValues bytes = some values → rawPayload values = bytes ∧ values.all isI16 = true := by
  induction bytes using rawValues.induct with
  | case1 => intro values h; cases h; exact ⟨rfl, rfl⟩
  | case2 b => intro values h; cases h
  | case3 hi lo rest ih =>
    intro values h
    rw [rawValues, Option.map_eq_some_iff] at h
    obtain ⟨vs, hvs, rfl⟩ := h
    obtain ⟨h₁, h₂⟩ := ih vs hvs
    refine ⟨?_, by simp [h₂, isI16_ofTc16]⟩
    have hs : rawPayload (ofTc16 (half hi lo) :: vs) = be16 (tc16 (ofTc16 (half hi lo))) ++ rawPayload vs := rfl
    rw [hs, h₁, tc16_ofTc16, be16, hi8_half, lo8_half]; rfl

end Sys2Proof.Machine
end

