-- ==== Sys2Proof/Laws/Ops.lean ====
section
/-! SUPPORT. What each shared operation can do, said once: the two timers as numbers, the teardown, the choice of the next
source, which rows each port can give, and runs over inputs. -/

namespace Sys2Proof.Machine

/-! ## Constants -/

theorem busyLoad_toNat : busyLoad.toNat = 5000 := by decide

theorem wdLoad_toNat (p : Params) : (wdLoad p).toNat = Config.wdTicks p.family := by
  rw [wdLoad]; cases p.family <;> decide

theorem wdTicks_pos (f : Family) : 0 < Config.wdTicks f := by cases f <;> decide

theorem wdLoad_ne_zero (p : Params) : wdLoad p ≠ 0#16 := by
  intro h
  have h₁ := wdLoad_toNat p
  have h₂ := wdTicks_pos p.family
  rw [h] at h₁; simp at h₁; omega

/-! ## Predicates -/

theorem Session.handleValid_iff (s : Session) :
    s.handleValid = true ↔ s.ls = .scanning ∨ s.ls = .connected := by simp [Session.handleValid]

theorem Session.eligible_iff (s : Session) (level : Bool) :
    s.eligible level = true ↔ s.ls = .connected ∧ level = true ∧ s.busy = false := by
  simp [Session.eligible, Session.linkUp, and_assoc]

/-! ## The busy timer -/

@[simp] theorem Session.tickBusy_ls (s : Session) : s.tickBusy.ls = s.ls := by
  unfold Session.tickBusy; repeat' split
  all_goals rfl

@[simp] theorem Session.tickBusy_wdActive (s : Session) : s.tickBusy.wdActive = s.wdActive := by
  unfold Session.tickBusy; repeat' split
  all_goals rfl

@[simp] theorem Session.tickBusy_wdCnt (s : Session) : s.tickBusy.wdCnt = s.wdCnt := by
  unfold Session.tickBusy; repeat' split
  all_goals rfl

@[simp] theorem Session.tickBusy_snap (s : Session) : s.tickBusy.snap = s.snap := by
  unfold Session.tickBusy; repeat' split
  all_goals rfl

theorem toNat_sub_one {n : Nat} (x : BitVec n) (h : x ≠ 0) : (x - 1).toNat = x.toNat - 1 := by
  have hx : x.toNat ≠ 0 := fun e => h (BitVec.eq_of_toNat_eq (by simpa using e))
  have hlt := x.isLt
  have hn : n ≠ 0 := by rintro rfl; omega
  have h1 : (1 : BitVec n).toNat = 1 := by
    have : 1 < 2 ^ n := Nat.one_lt_two_pow hn
    simp [Nat.mod_eq_of_lt this]
  rw [BitVec.toNat_sub, h1]
  have hp : 2 ^ n - 1 + x.toNat = (x.toNat - 1) + 2 ^ n := by omega
  rw [hp, Nat.add_mod_right, Nat.mod_eq_of_lt (by omega)]

theorem Session.tickBusy_busyCnt (s : Session) : s.tickBusy.busyCnt.toNat = s.busyCnt.toNat - 1 := by
  unfold Session.tickBusy
  split
  · rename_i h; rw [h]; rfl
  · rename_i h; split <;> exact toNat_sub_one _ h

theorem toNat_eq_zero_iff {n : Nat} (x : BitVec n) : x.toNat = 0 ↔ x = 0 := by
  rw [← BitVec.toNat_inj]; simp

theorem sub_one_eq_zero_iff {n : Nat} (x : BitVec n) (h : x ≠ 0) : x - 1 = 0 ↔ x.toNat = 1 := by
  rw [← toNat_eq_zero_iff, toNat_sub_one x h]
  have := mt (toNat_eq_zero_iff x).1 h
  omega

theorem Session.tickBusy_busy (s : Session) :
    s.tickBusy.busy = if s.busyCnt.toNat = 1 then false else s.busy := by
  unfold Session.tickBusy
  split
  · rename_i h; rw [h]; rfl
  · rename_i h
    simp only [sub_one_eq_zero_iff _ h]
    split <;> rfl

/-! ## The watchdog -/

/-- Everything one tick of the watchdog can do: fire and start the next interval, or count. -/
theorem Session.tickWatchdog_cases (p : Params) (s : Session) :
    (s.wdCnt.toNat = 1 ∧ s.tickWatchdog p =
      ⟨{ s with wdCnt := wdLoad p }, [.linkError Config.reasonDataStopped], none⟩) ∨
    (s.wdCnt.toNat ≠ 1 ∧ ∃ c, c.toNat = s.wdCnt.toNat - 1 ∧
      s.tickWatchdog p = ⟨{ s with wdCnt := c }, [], none⟩) := by
  unfold Session.tickWatchdog
  split
  · rename_i h
    refine .inr ⟨by simp [h], s.wdCnt, by simp [h], rfl⟩
  · rename_i h
    split
    · rename_i h1; exact .inl ⟨(sub_one_eq_zero_iff _ h).1 h1, rfl⟩
    · rename_i h1
      exact .inr ⟨fun e => h1 ((sub_one_eq_zero_iff _ h).2 e), _, toNat_sub_one _ h, rfl⟩

/-! ## The teardown -/

@[simp] theorem Session.teardown_ls (p : Params) (s : Session) : (s.teardown p).ls = s.ls := by
  unfold Session.teardown; split <;> rfl

@[simp] theorem Session.teardown_wdActive (p : Params) (s : Session) : (s.teardown p).wdActive = false := by
  unfold Session.teardown; split <;> rfl

@[simp] theorem Session.teardown_wdCnt (p : Params) (s : Session) : (s.teardown p).wdCnt = 0 := by
  unfold Session.teardown; split <;> rfl

@[simp] theorem Session.teardown_snap (p : Params) (s : Session) : (s.teardown p).snap = s.snap := by
  unfold Session.teardown; split <;> rfl

/-- The gate after a teardown: left alone, or opened (R130). -/
theorem Session.teardown_gate (p : Params) (s : Session) :
    (p.busyOnDisconnect = .runToExpiry ∧ (s.teardown p).busy = s.busy ∧ (s.teardown p).busyCnt = s.busyCnt) ∨
    (p.busyOnDisconnect = .cancelAndClear ∧ (s.teardown p).busy = false ∧ (s.teardown p).busyCnt = 0) := by
  unfold Session.teardown; split
  · rename_i h; exact .inl ⟨h, rfl, rfl⟩
  · rename_i h; exact .inr ⟨h, rfl, rfl⟩

/-! ## Which rows a port can give -/

theorem decodeOperands_isInput (op : CommandOp) (cw : CommandWord) (beats : List Half) (i : Instr)
    (h : decodeOperands op cw beats = .ok i) : i.isInput = true := by
  cases op <;> simp only [decodeOperands, formatN, byteStream, valueStream] at h
  all_goals (repeat' split at h) <;> simp_all [Except.map] <;> (subst h; rfl)

theorem decodeCommand_isInput (cw : CommandWord) (beats : List Half) (i : Instr)
    (h : decodeCommand cw beats = .ok i) : i.isInput = true := by
  unfold decodeCommand at h
  split at h
  · cases h
  · split at h
    · exact decodeOperands_isInput _ _ _ _ h
    · cases h

theorem decodeEvent_cases (ew : EventWord) (edata : List Byte) (i : Instr) (h : decodeEvent ew edata = .ok i) :
    i = .evConnect ∨ i = .evWriteDone ∨ (i = .evMessage edata ∧ edata.length ≤ 255) := by
  unfold decodeEvent plainEvent at h
  (repeat' split at h) <;> simp_all
  rename_i hn
  have := (ew.extractLsb' 0 8).isLt
  omega

theorem decodeOut_isOutput (T : CrcTable) (w : OutWord) (i : Instr) (h : decodeOut T w = .ok i) :
    i.isInput = false := by
  cases w <;> simp only [decodeOut, decodeRequest, plainRequest, decodeFrameA, decodeFrameB, decodeWireInstruction] at h
  all_goals (repeat' split at h) <;> simp_all <;> (subst h; rfl)

/-! ## Inputs always answer -/

/-- Every input row is answered by committing the reaction of R11's step model. -/
theorem exec_of_reaction (i : Instr) (s : State) (r : Reaction)
    (h : reaction Config.params s.tConnected s.session i = some r) : exec i s = .next (s.commit r) := by
  cases i <;> simp only [reaction, Option.some.injEq, reduceCtorEq] at h <;> subst h
  all_goals first | rfl | exact congrArg _ (s.returnResult_eq_commit _)

theorem reaction_isSome (p : Params) (level : Bool) (s : Session) (i : Instr) (h : i.isInput = true) :
    ∃ r, reaction p level s i = some r := by
  cases i <;> first | exact ⟨_, rfl⟩ | cases h

/-! ## Runs -/

theorem runInputs_append (xs ys : List Stimulus) (s : State) :
    runInputs (xs ++ ys) s =
      match runInputs xs s with
      | .next t => runInputs ys t
      | .fault f => .fault f
      | .refused r => .refused r := by
  induction xs generalizing s with
  | nil => rfl
  | cons x xs ih =>
    simp only [List.cons_append, runInputs]
    split <;> first | exact ih _ | rfl

/-- One input of a run: the reaction of the step model under its level is committed. -/
theorem runInputs_cons (x : Stimulus) (xs : List Stimulus) (s : State) (r : Reaction)
    (h : reaction Config.params x.level s.session x.input = some r) :
    runInputs (x :: xs) s = runInputs xs ({ s with tConnected := x.level }.commit r) := by
  rw [runInputs, exec_of_reaction x.input { s with tConnected := x.level } r h]

/-! ## The source served next -/

theorem mem_of_arbitrate (turn : Nat) (sources : List Source) (x : Source) (h : arbitrate turn sources = some x) :
    x ∈ sources := by
  match sources, h with
  | [y], h => cases h; exact List.mem_singleton_self _
  | y :: z :: rest, h => exact List.mem_of_getElem? h

theorem arbitrate_isSome (turn : Nat) (sources : List Source) (h : sources ≠ []) :
    ∃ x, arbitrate turn sources = some x := by
  match sources, h with
  | [y], _ => exact ⟨y, rfl⟩
  | y :: z :: rest, _ =>
    have hlt : Config.arbiter turn % (rest.length + 2) < (y :: z :: rest).length := Nat.mod_lt _ (by omega)
    exact ⟨_, List.getElem?_eq_getElem hlt⟩

theorem mem_readySources (s : State) (x : Source) :
    x ∈ readySources s ↔
      (x = .host ∧ hostReady s = true) ∨ (x = .transport ∧ transportReady s = true) ∨
        (x = .timeBase ∧ s.ticks ≠ 0) ∨ (x = .level ∧ s.levels ≠ []) := by
  unfold readySources
  simp only [List.mem_append]
  cases hostReady s <;> cases transportReady s <;> by_cases ht : s.ticks = 0 <;>
    cases hl : s.levels <;> simp [ht] <;> tauto

theorem hostReady_iff (s : State) :
    hostReady s = true ↔ ∃ cw rest, s.cwords = cw :: rest ∧ announcedBeats cw ≤ s.cdata.length := by
  unfold hostReady; split <;> simp_all

theorem transportReady_iff (s : State) :
    transportReady s = true ↔ ∃ ew rest, s.ewords = ew :: rest ∧ announcedBytes ew ≤ s.edata.length := by
  unfold transportReady; split <;> simp_all

theorem pick_of_idle_pins (s : State) (hr : s.rst = false) (ho : s.outbox = []) :
    pick s = arbitrate s.turn (readySources s) := by simp [pick, hr, ho]

end Sys2Proof.Machine
end

