-- ==== Sys2Proof/Laws/PerInstr.lean ====
section
/-! SUPPORT. What is said of every instruction as syntax, one lemma per constructor: the encoding of a well-formed
instruction decodes to it. -/

namespace Sys2Proof.Laws.RoundTrip

open Sys2Proof.Machine

/-- The encoding of a well-formed instruction decodes to it, under every CRC table. -/
def Statement (i : Instr) : Prop :=
  ∀ T : CrcTable, WellFormed i = true → decodeWith T (encodeWith T i) = .ok i

/-! ## The two shapes of command words -/

theorem decodeCommand_commandWord (op : CommandOp) (b39 : Byte) (h31 : Half) (b15 b7 : Byte) (beats : List Half) :
    decodeCommand (commandWord op b39 h31 b15 b7) beats = decodeOperands op (commandWord op b39 h31 b15 b7) beats := by
  have hop : opOf (commandWord op b39 h31 b15 b7) = op.code := by
    apply BitVec.eq_of_toNat_eq; rw [opOf, toNat_field, commandWord_toNat]; omega
  have hz : (commandWord op b39 h31 b15 b7).extractLsb' 40 4 = 0 := by
    rw [field_eq_zero, commandWord_toNat]; omega
  simp only [decodeCommand, hop, CommandOp.ofCode_code, hz, if_true]

theorem decodeCommand_commandWord40 (op : CommandOp) (low : BitVec 40) (beats : List Half) :
    decodeCommand (commandWord40 op low) beats = decodeOperands op (commandWord40 op low) beats := by
  have hop : opOf (commandWord40 op low) = op.code := by
    apply BitVec.eq_of_toNat_eq; rw [opOf, toNat_field, commandWord40_toNat]; omega
  have hz : (commandWord40 op low).extractLsb' 40 4 = 0 := by
    rw [field_eq_zero, commandWord40_toNat]; omega
  simp only [decodeCommand, hop, CommandOp.ofCode_code, hz, if_true]

section
variable (op : CommandOp) (b39 : Byte) (h31 : Half) (b15 b7 : Byte)

theorem commandWord_b39 : (commandWord op b39 h31 b15 b7).extractLsb' 32 8 = b39 := by
  apply BitVec.eq_of_toNat_eq; rw [toNat_field, commandWord_toNat]; omega

theorem commandWord_h31 : (commandWord op b39 h31 b15 b7).extractLsb' 16 16 = h31 := by
  apply BitVec.eq_of_toNat_eq; rw [toNat_field, commandWord_toNat]; omega

theorem commandWord_b15 : (commandWord op b39 h31 b15 b7).extractLsb' 8 8 = b15 := by
  apply BitVec.eq_of_toNat_eq; rw [toNat_field, commandWord_toNat]; omega

theorem commandWord_b7 : (commandWord op b39 h31 b15 b7).extractLsb' 0 8 = b7 := by
  apply BitVec.eq_of_toNat_eq; rw [toNat_field, commandWord_toNat]; omega

theorem commandWord_h15 : (commandWord op b39 h31 b15 b7).extractLsb' 0 16 = half b15 b7 := by
  apply BitVec.eq_of_toNat_eq; rw [toNat_field, commandWord_toNat, half_toNat]; omega

theorem commandWord_t39 : (commandWord op 0 0 b15 b7).extractLsb' 16 24 = 0 := by
  rw [field_eq_zero, commandWord_toNat]; simp; omega

end

section
variable (op : CommandOp) (low : BitVec 40) (service : ServiceId) (characteristic : CharId) (b : Byte)

theorem commandWord40_low : (commandWord40 op low).extractLsb' 0 40 = low := by
  apply BitVec.eq_of_toNat_eq; rw [toNat_field, commandWord40_toNat]; omega

theorem commandWord40_service :
    (commandWord40 op (pairField service characteristic b)).extractLsb' 24 16 = service := by
  apply BitVec.eq_of_toNat_eq; rw [toNat_field, commandWord40_toNat, pairField_toNat]; omega

theorem commandWord40_characteristic :
    (commandWord40 op (pairField service characteristic b)).extractLsb' 8 16 = characteristic := by
  apply BitVec.eq_of_toNat_eq; rw [toNat_field, commandWord40_toNat, pairField_toNat]; omega

theorem commandWord40_count : (commandWord40 op (pairField service characteristic b)).extractLsb' 0 8 = b := by
  apply BitVec.eq_of_toNat_eq; rw [toNat_field, commandWord40_toNat, pairField_toNat]; omega

end

/-! ## Commands -/

theorem crcCompute (seed : Half) (bytes : List Byte) : Statement (.crcCompute seed bytes) := by
  intro T h
  have hl : bytes.length ≤ 65535 := of_decide_eq_true h
  have hs : byteStream (BitVec.ofNat 16 bytes.length).toNat (bytes.map byteBeat) = .ok bytes := by
    rw [byteStream_ok]; refine ⟨?_, rfl⟩; rw [List.length_map, BitVec.toNat_ofNat]; omega
  simp only [encodeWith, decodeWith, decodeCommand_commandWord, decodeOperands, commandWord_b39, commandWord_h31,
    commandWord_h15, half_hi8_lo8, hs, if_true, Except.map]

theorem encByteWrite (deviceId : Byte) (address : Half) (value : Byte) :
    Statement (.encByteWrite deviceId address value) := by
  intro T _
  simp only [encodeWith, decodeWith, decodeCommand_commandWord, decodeOperands, commandWord_b39, commandWord_h31,
    commandWord_b15, commandWord_b7, if_true]

theorem encWordWrite (deviceId : Byte) (address : Half) (value : Half) :
    Statement (.encWordWrite deviceId address value) := by
  intro T _
  simp only [encodeWith, decodeWith, decodeCommand_commandWord, decodeOperands, commandWord_b39, commandWord_h31,
    commandWord_h15, half_hi8_lo8, if_true]

theorem encRaw (values : List Int) : Statement (.encRaw values) := by
  intro T h
  have h : values.length ≤ 65535 ∧ values.all isI16 = true := rawValuesOk_iff.1 h
  have hs : valueStream (BitVec.ofNat 16 values.length).toNat (values.map tc16) = .ok values := by
    rw [valueStream_ok, List.length_map, BitVec.toNat_ofNat]
    exact ⟨by omega, map_ofTc16_map_tc16 values h.2⟩
  simp only [encodeWith, decodeWith, decodeCommand_commandWord, decodeOperands, commandWord_t39, commandWord_h15,
    half_hi8_lo8, hs, if_true, Except.map]

theorem formatN_zero (i : Instr) (op : CommandOp) : formatN i (commandWord40 op 0) [] = .ok i := by
  simp only [formatN, commandWord40_low, if_true]

theorem scan : Statement .scan := by
  intro T _; simp only [encodeWith, decodeWith, decodeCommand_commandWord40, decodeOperands, formatN_zero]

theorem connect (peripheralId : PeripheralId) : Statement (.connect peripheralId) := by
  intro T _
  have hz : (commandWord40 .connect ((0#8) ++ peripheralId)).extractLsb' 32 8 = 0 := by
    rw [field_eq_zero, commandWord40_toNat, toNat_append_add]; simp; omega
  have hp : (commandWord40 .connect ((0#8) ++ peripheralId)).extractLsb' 0 32 = peripheralId := by
    apply BitVec.eq_of_toNat_eq; rw [toNat_field, commandWord40_toNat, toNat_append_add]; simp; omega
  simp only [encodeWith, decodeWith, decodeCommand_commandWord40, decodeOperands, hz, hp, if_true]

theorem disconnect : Statement .disconnect := by
  intro T _; simp only [encodeWith, decodeWith, decodeCommand_commandWord40, decodeOperands, formatN_zero]

theorem sreset : Statement .sreset := by
  intro T _; simp only [encodeWith, decodeWith, decodeCommand_commandWord40, decodeOperands, formatN_zero]

theorem isConnected : Statement .isConnected := by
  intro T _; simp only [encodeWith, decodeWith, decodeCommand_commandWord40, decodeOperands, formatN_zero]

theorem send (service : ServiceId) (characteristic : CharId) (payload : List Byte) :
    Statement (.send service characteristic payload) := by
  intro T h
  have hl : payload.length ≤ 255 := of_decide_eq_true h
  have hs : byteStream (BitVec.ofNat 8 payload.length).toNat (payload.map byteBeat) = .ok payload := by
    rw [byteStream_ok]; refine ⟨?_, rfl⟩; rw [List.length_map, BitVec.toNat_ofNat]; omega
  simp only [encodeWith, decodeWith, decodeCommand_commandWord40, decodeOperands, commandWord40_service,
    commandWord40_characteristic, commandWord40_count, hs, Except.map]

/-! ## Events -/

theorem evConnect : Statement .evConnect := fun _ _ => rfl

theorem evWriteDone : Statement .evWriteDone := fun _ _ => rfl

theorem evMessage (rawBytes : List Byte) : Statement (.evMessage rawBytes) := by
  intro T h
  have hl : rawBytes.length ≤ 255 := of_decide_eq_true h
  have hc : ((eventWord 0x3 (BitVec.ofNat 8 rawBytes.length)).extractLsb' 12 4).toNat = 0x3 := by
    rw [toNat_field, eventWord_toNat]; simp; omega
  have hz : (eventWord 0x3 (BitVec.ofNat 8 rawBytes.length)).extractLsb' 8 4 = 0 := by
    rw [field_eq_zero, eventWord_toNat]; simp; omega
  have hn : rawBytes.length = ((eventWord 0x3 (BitVec.ofNat 8 rawBytes.length)).extractLsb' 0 8).toNat := by
    rw [toNat_field, eventWord_toNat]; simp; omega
  simp only [encodeWith, decodeWith, decodeEvent, hc, hz, ← hn, if_true]

theorem evTick : Statement .evTick := fun _ _ => rfl

/-! ## Requests -/

theorem tDiscover : Statement .tDiscover := fun _ _ => rfl

theorem tConnect (peripheralId : PeripheralId) : Statement (.tConnect peripheralId) := by
  intro T _
  have ht : (requestWord 0x2 false ((0#8) ++ peripheralId)).toNat = 0x2 * 2 ^ 44 + peripheralId.toNat := by
    rw [requestWord_toNat, toNat_append_add]; simp
  have hc : ((requestWord 0x2 false ((0#8) ++ peripheralId)).extractLsb' 44 4).toNat = 0x2 := by
    rw [toNat_field, ht]; omega
  have hz : (requestWord 0x2 false ((0#8) ++ peripheralId)).extractLsb' 32 12 = 0 := by
    rw [field_eq_zero, ht]; omega
  have hp : (requestWord 0x2 false ((0#8) ++ peripheralId)).extractLsb' 0 32 = peripheralId := by
    apply BitVec.eq_of_toNat_eq; rw [toNat_field, ht]; omega
  simp only [encodeWith, decodeWith, decodeOut, decodeRequest, hc, hz, hp, plainRequest, beq_self_eq_true, if_true]

theorem tWrite (framing : Bool) (service : ServiceId) (characteristic : CharId) (payload : List Byte) :
    Statement (.tWrite framing service characteristic payload) := by
  intro T h
  have hl : payload.length ≤ 255 := of_decide_eq_true h
  have ht : (requestWord 0x3 framing (pairField service characteristic (BitVec.ofNat 8 payload.length))).toNat =
      0x3 * 2 ^ 44 + framing.toNat * 2 ^ 40 + service.toNat * 2 ^ 24 + characteristic.toNat * 2 ^ 8 +
        payload.length := by
    rw [requestWord_toNat, pairField_toNat, BitVec.toNat_ofNat]; simp; omega
  have hf : framing.toNat ≤ 1 := by cases framing <;> decide
  simp only [encodeWith, decodeWith, decodeOut, decodeRequest]
  generalize requestWord 0x3 framing (pairField service characteristic (BitVec.ofNat 8 payload.length)) = tw at ht
  have hc : (tw.extractLsb' 44 4).toNat = 0x3 := by rw [toNat_field, ht]; omega
  have hz : tw.extractLsb' 41 3 = 0 := by rw [field_eq_zero, ht]; omega
  have hn : (tw.extractLsb' 0 8).toNat = payload.length := by rw [toNat_field, ht]; omega
  have hs : tw.extractLsb' 24 16 = service := by apply BitVec.eq_of_toNat_eq; rw [toNat_field, ht]; omega
  have hr : tw.extractLsb' 8 16 = characteristic := by apply BitVec.eq_of_toNat_eq; rw [toNat_field, ht]; omega
  have hb : tw.getLsbD 40 = framing := by
    rw [BitVec.getLsbD, Nat.testBit_eq_decide_div_mod_eq, ht]
    cases framing <;> simp <;> omega
  simp only [hc, hz, hn, hs, hr, hb, if_true]

theorem tSubscribe (service : ServiceId) (characteristic : CharId) :
    Statement (.tSubscribe service characteristic) := by
  intro T _
  have ht : (requestWord 0x4 false (pairField service characteristic 0)).toNat =
      0x4 * 2 ^ 44 + service.toNat * 2 ^ 24 + characteristic.toNat * 2 ^ 8 := by
    rw [requestWord_toNat, pairField_toNat]; simp; omega
  simp only [encodeWith, decodeWith, decodeOut, decodeRequest]
  generalize requestWord 0x4 false (pairField service characteristic 0) = tw at ht
  have hc : (tw.extractLsb' 44 4).toNat = 0x4 := by rw [toNat_field, ht]; omega
  have hz : tw.extractLsb' 40 4 = 0 := by rw [field_eq_zero, ht]; omega
  have hn : tw.extractLsb' 0 8 = 0 := by rw [field_eq_zero, ht]; omega
  have hs : tw.extractLsb' 24 16 = service := by apply BitVec.eq_of_toNat_eq; rw [toNat_field, ht]; omega
  have hr : tw.extractLsb' 8 16 = characteristic := by apply BitVec.eq_of_toNat_eq; rw [toNat_field, ht]; omega
  simp only [hc, hz, hn, hs, hr, plainRequest, beq_self_eq_true, Bool.and_self, if_true]

theorem tTeardown : Statement .tTeardown := fun _ _ => rfl

theorem tLinkError (reason : Byte) : Statement (.tLinkError reason) := by
  intro T _
  have ht : (requestWord 0x6 false ((0#32) ++ reason)).toNat = 0x6 * 2 ^ 44 + reason.toNat := by
    rw [requestWord_toNat, toNat_append_add]; simp
  simp only [encodeWith, decodeWith, decodeOut, decodeRequest]
  generalize requestWord 0x6 false ((0#32) ++ reason) = tw at ht
  have hc : (tw.extractLsb' 44 4).toNat = 0x6 := by rw [toNat_field, ht]; omega
  have hz : tw.extractLsb' 8 36 = 0 := by rw [field_eq_zero, ht]; omega
  have hr : tw.extractLsb' 0 8 = reason := by apply BitVec.eq_of_toNat_eq; rw [toNat_field, ht]; omega
  simp only [hc, hz, hr, plainRequest, beq_self_eq_true, if_true]

/-! ## The wire layer -/

theorem frameAByte (deviceId : Byte) (address : Half) (value : Byte) :
    Statement (.frameAByte deviceId address value) := by
  intro T _
  have hb := frameBody_byte deviceId address value
  simp only [encodeWith, decodeWith, decodeOut, byteWriteFrame, frameA, hb, le16, List.cons_append, List.nil_append]
  simp [decodeFrameA, Config.header, Config.instWrite]

theorem frameAWord (deviceId : Byte) (address : Half) (value : Half) :
    Statement (.frameAWord deviceId address value) := by
  intro T _
  have hb := frameBody_word deviceId address value
  simp only [encodeWith, decodeWith, decodeOut, wordWriteFrame, frameA, hb]
  simp only [le16, List.cons_append, List.nil_append]
  simp [decodeFrameA, Config.header, Config.instWrite]

theorem frameBRaw (values : List Int) : Statement (.frameBRaw values) := by
  intro T h
  have h : values.length ≤ Config.rawLenMax ∧ values.all isI16 = true := rawValuesOk_iff.1 h
  simp only [encodeWith, decodeWith, decodeOut, decodeFrameB, rawValues_rawPayload values h.2, h.1, if_true]

theorem instNone : Statement .instNone := fun _ _ => rfl

theorem instRead : Statement .instRead := fun _ _ => rfl

theorem instWrite : Statement .instWrite := fun _ _ => rfl

end Sys2Proof.Laws.RoundTrip
end

