-- ==== Sys2Proof/Laws/Step.lean ====
section
/-! SUPPORT. What a step can do, said once: how much of a stream an accepted word takes, what a meaning that answers a
next state has done, what taking a word from a port leaves alone, and the four ways a step can come to its next state. -/

namespace Sys2Proof.Machine

/-- An accepted command takes exactly the beats its word announces (R82). -/
theorem announcedBeats_of_decode (cw : CommandWord) (beats : List Half) (i : Instr)
    (h : decodeCommand cw beats = .ok i) : announcedBeats cw = beats.length := by
  unfold decodeCommand at h
  split at h
  · cases h
  rename_i op hop
  split at h
  case isFalse => cases h
  unfold announcedBeats
  rw [hop]
  cases op <;> simp only [decodeOperands, formatN, byteStream, valueStream] at h <;> (repeat' split at h) <;> simp_all [Except.map]

/-- An accepted event takes exactly the bytes its word announces (R83). -/
theorem announcedBytes_of_decode (ew : EventWord) (edata : List Byte) (i : Instr)
    (h : decodeEvent ew edata = .ok i) : announcedBytes ew = edata.length := by
  unfold decodeEvent plainEvent at h
  unfold announcedBytes
  split at h
  all_goals rename_i hc
  · have : ¬ ew.extractLsb' 12 4 = 3 := by intro h; rw [h] at hc; simp at hc
    (repeat' split at h) <;> simp_all
  · have : ¬ ew.extractLsb' 12 4 = 3 := by intro h; rw [h] at hc; simp at hc
    (repeat' split at h) <;> simp_all
  · have : ew.extractLsb' 12 4 = 3 := BitVec.eq_of_toNat_eq hc
    (repeat' split at h) <;> simp_all
  · cases h

/-- What a meaning that answers a next state has done: an input row has committed its reaction; a row of the output
layers has added an output and nothing else. -/
theorem exec_next_cases (i : Instr) (s t : State) (h : exec i s = .next t) :
    (∃ r, reaction Config.params s.tConnected s.session i = some r ∧ t = s.commit r) ∨
    (i.isInput = false ∧ t.session = s.session ∧ s.SamePorts t ∧
      ∃ out res, t.requests = s.requests ++ out ∧ t.results = s.results ++ res) := by
  by_cases hi : i.isInput = true
  · obtain ⟨r, hr⟩ := reaction_isSome Config.params s.tConnected s.session i hi
    rw [exec_of_reaction i s r hr] at h; cases h
    exact .inl ⟨r, hr, rfl⟩
  · right
    refine ⟨by simpa using hi, ?_⟩
    cases i <;> simp [Instr.isInput] at hi <;> cases h
    all_goals first
      | exact ⟨rfl, s.emit_samePorts _, _, [], rfl, (List.append_nil _).symm⟩
      | exact ⟨rfl, s.returnResult_samePorts _, [], _, (List.append_nil _).symm, rfl⟩

/-- Taking a word leaves the session, what has left, and the reset pin alone. -/
theorem fetch_frame (source : Source) (s : State) (w : PortWord) (t : State) (h : fetch source s = some (w, t)) :
    t.session = s.session ∧ t.requests = s.requests ∧ t.results = s.results ∧ t.rst = s.rst ∧
      t.tConnected = s.tConnected := by
  unfold fetch at h
  split at h <;> (try split at h) <;> simp at h <;> (try (obtain ⟨_, rfl⟩ := h)) <;> exact ⟨rfl, rfl, rfl, rfl, rfl⟩

/-- Every way a step can come to a next state. -/
theorem step_next_cases (s t : State) (h : step s = .next t) :
    t = s ∨ (s.rst = true ∧ t = s.hardwareReset) ∨ t = s.driveLevel ∨
      ∃ source w u i, fetch source s = some (w, u) ∧ decode w = .ok i ∧ exec i u = .next t := by
  unfold step at h
  split at h
  · cases h; exact .inl rfl
  · cases h; rename_i hp; refine .inr (.inl ⟨?_, rfl⟩)
    by_contra hr
    simp only [pick, hr, if_false] at hp
    split at hp
    · have := (mem_readySources s _).1 (mem_of_arbitrate _ _ _ hp); simp at this
    · cases hp
  · cases h; exact .inr (.inr (.inl rfl))
  · split at h
    · cases h; exact .inl rfl
    · rename_i hf
      unfold runWord at h
      split at h
      · exact .inr (.inr (.inr ⟨_, _, _, _, hf, ‹_›, h⟩))
      · cases h

end Sys2Proof.Machine
end

