-- ==== Sys2Proof/Tests/Slice0.lean ====
section
/-! SUPPORT. Tests. Every expected value is one of spec/95_test_vectors.md (its section and row stand beside the test) or
is worked out by hand from the rule that is cited; the last part meets the hypotheses of every statement. -/

namespace Sys2Proof.Tests

open Sys2Proof.Machine

/-- The parameters of the programs P1 to P6 (section 6), family A, `WRITE_FRAMING` = 1, candidate table `T_8005`. -/
def paramsA : Params where
  family := .a
  crcTable := table8005
  writeFraming := true
  rxService := 1
  rxChar := 3
  scanFilter := []
  wdReason := []
  movingIdx := 0
  busyOnDisconnect := .runToExpiry

/-- The same for family B, `WRITE_FRAMING` = 0, under the other value of `BUSY_ON_DISCONNECT`. -/
def paramsB : Params := { paramsA with family := .b, writeFraming := false, busyOnDisconnect := .cancelAndClear }

/-- A session written as section 5 writes it: `(ls, busy, busy_cnt, wd_active, wd_cnt)`, no snapshot. -/
def sess (ls : LinkState) (busy : Bool) (busyCnt : BitVec 13) (wdActive : Bool) (wdCnt : BitVec 16) : Session :=
  ⟨ls, busy, busyCnt, wdActive, wdCnt, none⟩

/-- The machine after reset with that session and the level `tc` of `t_connected`. -/
def at_ (s : Session) (tc : Bool) : State := { State.reset with session := s, tConnected := tc }

/-! ## Ill-formed terms are refused by `WellFormed` (R8, R9) -/

theorem test_wf_crc_too_long (bytes : List Byte) (h : bytes.length = 65536) :
    WellFormed (.crcCompute 0 bytes) = false := by simp [WellFormed, Config.crcLenMax, h]

theorem test_wf_raw_too_long (values : List Int) (h : values.length = 65536) :
    WellFormed (.encRaw values) = false := by simp [WellFormed, rawValuesOk, Config.rawLenMax, h]

theorem test_wf_raw_above_i16 : WellFormed (.encRaw [32768]) = false := by decide

theorem test_wf_raw_below_i16 : WellFormed (.encRaw [-32769]) = false := by decide

theorem test_wf_send_too_long (payload : List Byte) (h : payload.length = 256) :
    WellFormed (.send 1 2 payload) = false := by simp [WellFormed, Config.sendMax, h]

theorem test_wf_message_too_long (rawBytes : List Byte) (h : rawBytes.length = 256) :
    WellFormed (.evMessage rawBytes) = false := by simp [WellFormed, Config.msgMax, h]

theorem test_wf_write_too_long (payload : List Byte) (h : payload.length = 256) :
    WellFormed (.tWrite true 1 2 payload) = false := by simp [WellFormed, Config.sendMax, h]

theorem test_wf_frame_b_above_i16 : WellFormed (.frameBRaw [0, 40000]) = false := by decide

theorem test_wf_raw_bounds : WellFormed (.encRaw [32767, -32768]) = true := by decide

/-! ## Words written out from the spec decode to their instruction -/

/-- Section 6, P5, step 1, cut to two bytes; R80 format C. -/
theorem test_decode_crcCompute :
    decodeCommand 0x10002A940002 [0x0006, 0x00FF] = .ok (.crcCompute 0x2A94 [0x06, 0xFF]) := rfl

/-- Section 3, row 4: an address whose two bytes differ. -/
theorem test_decode_encByteWrite : decodeCommand 0x40C80102007F [] = .ok (.encByteWrite 200 0x0102 0x7F) := rfl

/-- Section 3, row 9. -/
theorem test_decode_encWordWrite : decodeCommand 0x50011234ABCD [] = .ok (.encWordWrite 1 0x1234 0xABCD) := rfl

/-- Section 4, row 7. -/
theorem test_decode_encRaw :
    decodeCommand 0x600000000003 [0x0100, 0x0001, 0xFF00] = .ok (.encRaw [256, 1, -256]) := rfl

/-- R81; P2, step 1. -/
theorem test_decode_scan : decodeCommand 0x800000000000 [] = .ok .scan := rfl

/-- P2, step 2. -/
theorem test_decode_connect : decodeCommand 0x900000000007 [] = .ok (.connect 7) := rfl

/-- P4, step 6. -/
theorem test_decode_disconnect : decodeCommand 0xA00000000000 [] = .ok .disconnect := rfl

/-- R81. -/
theorem test_decode_sreset : decodeCommand 0xB00000000000 [] = .ok .sreset := rfl

/-- P1, step 5. -/
theorem test_decode_isConnected : decodeCommand 0xC00000000000 [] = .ok .isConnected := rfl

/-- P4, step 10. -/
theorem test_decode_send : decodeCommand 0xD00005000602 [0, 0] = .ok (.send 5 6 [0, 0]) := rfl

/-- P2, step 3. -/
theorem test_decode_evConnect : decodeEvent 0x1000 [] = .ok .evConnect := rfl

/-- P2, step 7. -/
theorem test_decode_evWriteDone : decodeEvent 0x2000 [] = .ok .evWriteDone := rfl

/-- P3, step 3. -/
theorem test_decode_evMessage : decodeEvent 0x3001 [0x01] = .ok (.evMessage [0x01]) := rfl

/-- R83: the tick has no word. -/
theorem test_decode_evTick : decode .tick = .ok .evTick := rfl

/-- P2, step 1. -/
theorem test_decode_tDiscover : decodeRequest 0x100000000000 [] = .ok .tDiscover := rfl

/-- Section 5, row 7. -/
theorem test_decode_tConnect : decodeRequest 0x2000FFFFFFFF [] = .ok (.tConnect 0xFFFFFFFF) := rfl

/-- P2, step 4 with `framing` = 1, cut to two bytes. -/
theorem test_decode_tWrite : decodeRequest 0x310001000202 [0xFF, 0xFD] = .ok (.tWrite true 1 2 [0xFF, 0xFD]) := rfl

/-- P2, step 3. -/
theorem test_decode_tSubscribe : decodeRequest 0x400001000300 [] = .ok (.tSubscribe 1 3) := rfl

/-- P4, step 6. -/
theorem test_decode_tTeardown : decodeRequest 0x500000000000 [] = .ok .tTeardown := rfl

/-- P4, step 2. -/
theorem test_decode_tLinkError : decodeRequest 0x600000000001 [] = .ok (.tLinkError 1) := rfl

/-- Section 3, row 4, under `T_3D65`. -/
theorem test_decode_frameAByte :
    decodeFrameA table3D65
      [0xFF, 0xFF, 0xFD, 0x00, 0xC8, 0x06, 0x00, 0x03, 0x02, 0x01, 0x7F, 0xE6, 0x12] =
        .ok (.frameAByte 200 0x0102 0x7F) := rfl

/-- Section 3, row 9, under `T_8005`. -/
theorem test_decode_frameAWord :
    decodeFrameA table8005
      [0xFF, 0xFF, 0xFD, 0x00, 0x01, 0x07, 0x00, 0x03, 0x34, 0x12, 0xCD, 0xAB, 0xCD, 0x61] =
        .ok (.frameAWord 1 0x1234 0xABCD) := rfl

/-- Section 4, row 5. -/
theorem test_decode_frameBRaw : decodeFrameB [0x01, 0x2C, 0xFE, 0xD4] = .ok (.frameBRaw [300, -300]) := rfl

/-- R74. -/
theorem test_decode_instructions :
    decodeWireInstruction 0 = .ok .instNone ∧ decodeWireInstruction 2 = .ok .instRead ∧
      decodeWireInstruction 3 = .ok .instWrite := ⟨rfl, rfl, rfl⟩

/-! ## Words that are no instruction (section 5, "Illegal words"; R74, R75, R84) -/

theorem test_illegal_commands :
    decodeCommand 0x000000000000 [] = .error .reservedOpcode ∧
      decodeCommand 0x700000000000 [] = .error .reservedOpcode ∧
      decodeCommand 0x810000000000 [] = .error .commandReservedBits ∧
      decodeCommand 0x800000000001 [] = .error .commandNonzeroField ∧
      decodeCommand 0x40C800980100 [] = .error .commandNonzeroField ∧
      decodeCommand 0x900100000007 [] = .error .commandNonzeroField ∧
      decodeCommand 0x100000000001 [0x0100] = .error .wideByteBeat := ⟨rfl, rfl, rfl, rfl, rfl, rfl, rfl⟩

theorem test_illegal_events :
    decodeEvent 0x0000 [] = .error .reservedEventCode ∧ decodeEvent 0x4000 [] = .error .reservedEventCode ∧
      decodeEvent 0x1001 [] = .error .eventCount ∧ decodeEvent 0x2001 [] = .error .eventCount ∧
      decodeEvent 0x3103 [0, 0, 0] = .error .eventReservedBits := ⟨rfl, rfl, rfl, rfl, rfl⟩

theorem test_illegal_outputs :
    decodeRequest 0x700000000000 [] = .error .reservedRequestCode ∧
      decodeRequest 0x500000000001 [] = .error .requestNonzeroField ∧
      decodeWireInstruction 1 = .error .unnamedWireInstruction ∧
      decodeFrameB [0x01] = .error .rawShape ∧
      decodeFrameA table8005
        [0xFF, 0xFF, 0xFD, 0x00, 0xC8, 0x06, 0x00, 0x03, 0x98, 0x00, 0x00, 0x2D, 0xAE] = .error .frameCrc :=
  ⟨rfl, rfl, rfl, rfl, rfl⟩

/-! ## The CRC Engine (section 2; spec/43_crc_table_candidates.md) -/

/-- The entries named in section 2, both candidates. -/
theorem test_table_entries :
    table8005 0x01 = 0x8005 ∧ table8005 0x44 = 0x0198 ∧ table8005 0x80 = 0x8303 ∧ table8005 0xFF = 0x0202 ∧
      table3D65 0x01 = 0x3D65 ∧ table3D65 0x44 = 0xC8A2 ∧ table3D65 0x80 = 0x7A6C ∧ table3D65 0xFF = 0xAC48 := by
  decide

/-- Section 2, "Single step". -/
theorem test_crc_step : crcStep table8005 0x1234 0x56 = 0x3598 ∧ crcStep table3D65 0x1234 0x56 = 0xFCA2 := by decide

/-- Section 2, rows 8 and 26: the check string under two seeds. -/
theorem test_crc_check_string :
    computeCrc table8005 0 [0x31, 0x32, 0x33, 0x34, 0x35, 0x36, 0x37, 0x38, 0x39] = 0xFEE8 ∧
      computeCrc table3D65 0x1234 [0x31, 0x32, 0x33, 0x34, 0x35, 0x36, 0x37, 0x38, 0x39] = 0x91A8 := by decide

/-- Section 2, row 7 and its reversal: the order of the bytes matters. -/
theorem test_crc_order :
    computeCrc table8005 0 [1, 2, 3, 4] = 0x9E33 ∧ computeCrc table8005 0 [4, 3, 2, 1] = 0xDC39 := by decide

/-- Section 2, "For recognition only". -/
theorem test_crc_reflected :
    computeCrc tableReflected 0 [0x31, 0x32, 0x33, 0x34, 0x35, 0x36, 0x37, 0x38, 0x39] = 0xFABC := by decide

/-! ## The Packet Encoder (sections 3 and 4) -/

/-- S3. -/
theorem test_byte_write_frame :
    byteWriteFrame table8005 200 152 0 =
      [0xFF, 0xFF, 0xFD, 0x00, 0xC8, 0x06, 0x00, 0x03, 0x98, 0x00, 0x00, 0xAE, 0x2D] := by decide

/-- Section 3, row 10: the parameters repeat the header, and nothing is stuffed (R76). -/
theorem test_word_write_frame :
    wordWriteFrame table3D65 1 0xFFFF 0x00FD =
      [0xFF, 0xFF, 0xFD, 0x00, 0x01, 0x07, 0x00, 0x03, 0xFF, 0xFF, 0xFD, 0x00, 0x9B, 0x1C] := by decide +kernel

/-- Section 4, rows 6 and 7. -/
theorem test_raw_payload :
    rawPayload [32767, -32768] = [0x7F, 0xFF, 0x80, 0x00] ∧
      rawPayload [256, 1, -256] = [0x01, 0x00, 0x00, 0x01, 0xFF, 0x00] := by decide

/-- Section 3, row 11, and R89: the caller's two transforms. -/
theorem test_caller_transforms :
    encWordWriteDir 200 84 true 500 = some (.encWordWrite 200 84 1523) ∧
      encWordWriteDir 200 84 false 500 = some (.encWordWrite 200 84 500) ∧ clamp300 1000 = 300 := by decide

/-! ## The Link Session, one step each (section 5; the row stands in the name) -/

theorem test_scan_row_3 :
    onScan paramsA (sess .connected false 0 true 120) =
      ⟨sess .scanning false 0 false 0, [.teardown, .discover], some .completion⟩ := by decide

theorem test_scan_row_4 :
    onScan paramsA (sess .disconnected true 77 false 0) =
      ⟨sess .scanning true 77 false 0, [.discover], some .completion⟩ := by decide

theorem test_connect_row_5 :
    onConnectCommand 7 (sess .idle false 0 false 0) = ⟨sess .idle false 0 false 0, [], some .completion⟩ := by decide

theorem test_connect_row_7 :
    onConnectCommand 0xFFFFFFFF (sess .connected false 0 true 9) =
      ⟨sess .connected false 0 true 9, [.connect 0xFFFFFFFF], some .completion⟩ := by decide

theorem test_disconnect_row_9 :
    onDisconnect paramsA (sess .connected true 4000 true 300) =
      ⟨sess .disconnected true 4000 false 0, [.teardown], some .completion⟩ := by decide

theorem test_disconnect_row_10 :
    onDisconnect paramsB (sess .connected true 4000 true 300) =
      ⟨sess .disconnected false 0 false 0, [.teardown], some .completion⟩ := by decide

theorem test_sreset_row_11 :
    onSreset paramsA (sess .scanning false 0 false 0) =
      ⟨sess .idle false 0 false 0, [.teardown], some .completion⟩ := by decide

theorem test_sreset_row_12 :
    onSreset paramsA (sess .disconnected false 0 false 0) =
      ⟨sess .idle false 0 false 0, [], some .completion⟩ := by decide

theorem test_isConnected_row_13 :
    onIsConnected true (sess .connected true 10 true 10) =
      ⟨sess .connected true 10 true 10, [], some (.bit true)⟩ := by decide

theorem test_isConnected_row_15 :
    onIsConnected true (sess .scanning false 0 false 0) =
      ⟨sess .scanning false 0 false 0, [], some (.bit false)⟩ := by decide

theorem test_send_row_16 :
    onSend paramsA true 1 2 [0xAA] (sess .connected false 0 true 900) =
      ⟨sess .connected true 5000 true 900, [.write true 1 2 [0xAA]], some .completion⟩ := by decide

theorem test_send_rows_17_18 :
    onSend paramsA true 1 2 [0xAA] (sess .connected true 1 true 900) =
        ⟨sess .connected true 1 true 900, [], some .completion⟩ ∧
      onSend paramsA false 1 2 [0xAA] (sess .connected false 0 true 900) =
        ⟨sess .connected false 0 true 900, [], some .completion⟩ := by decide

theorem test_evMessage_row_19 :
    onEvMessage paramsB [0x00, 0x01] (sess .connected true 4100 true 37) =
      ⟨⟨.connected, true, 4100, true, 2500, some [0x00, 0x01]⟩, [], none⟩ := by decide

theorem test_evMessage_row_20 :
    onEvMessage paramsA [] (sess .connected false 0 true 1) =
      ⟨sess .connected false 0 true 45000, [], none⟩ := by decide

theorem test_evConnect_row_23 :
    onEvConnect paramsA (sess .scanning true 3900 false 0) =
      ⟨sess .connected true 3900 true 45000, [.subscribe 1 3], none⟩ := by decide

theorem test_evConnect_row_25 :
    onEvConnect paramsA (sess .idle false 0 false 0) = ⟨sess .idle false 0 false 0, [], none⟩ := by decide

theorem test_evWriteDone_row_27 :
    onEvWriteDone (sess .disconnected true 4000 false 0) = ⟨sess .disconnected false 0 false 0, [], none⟩ := by decide

theorem test_evTick_row_30 :
    onEvTick paramsA (sess .connected true 1 true 50) = ⟨sess .connected false 0 true 49, [], none⟩ := by decide

theorem test_evTick_row_31 :
    onEvTick paramsB (sess .connected false 0 true 1) =
      ⟨sess .connected false 0 true 2500, [.linkError 0x01], none⟩ := by decide

/-- R28: the byte at `MOVING_IDX` of a family-B snapshot; absent when the message is too short, and in family A. -/
theorem test_moving_status :
    Session.movingStatus paramsB ⟨.connected, false, 0, true, 1, some [0x07]⟩ = some 0x07 ∧
      Session.movingStatus paramsB ⟨.connected, false, 0, true, 1, some []⟩ = none ∧
      Session.movingStatus paramsA ⟨.connected, false, 0, true, 1, some [0x07]⟩ = none := by decide

/-! ## The host's table words, and the first step after reset -/

/-- The rows whose words stand in spec/opcode_table.json as bits. -/
theorem test_table_words :
    decodeTableWord 16 0x1000 = some .evConnect ∧ decodeTableWord 16 0x2000 = some .evWriteDone ∧
      decodeTableWord 16 0x3002 = some (.evMessage [0, 0]) ∧ decodeTableWord 8 0 = some .instNone ∧
      decodeTableWord 8 2 = some .instRead ∧ decodeTableWord 8 3 = some .instWrite := ⟨rfl, rfl, rfl, rfl, rfl, rfl⟩

/-- Command words, and a request word that is no command. -/
theorem test_table_words_48 :
    decodeTableWord 48 0x40C800980000 = some (.encByteWrite 200 152 0) ∧
      decodeTableWord 48 0xD00005000602 = some (.send 5 6 [0, 0]) ∧
      decodeTableWord 48 0x310001000202 = some (.tWrite true 1 2 [0, 0]) ∧ decodeTableWord 48 0 = none :=
  ⟨rfl, rfl, rfl, rfl⟩

/-- Section 5, row 1, as the first step after reset. -/
theorem test_step_scan :
    step (State.reset.withFetchWord 48 0x800000000000) =
      .next { State.reset with session := sess .scanning false 0 false 0, turn := 1, requests := [.discover],
                               results := [.completion] } := rfl

/-- P1, step 3, as the first step after reset: two values of zero. -/
theorem test_step_encRaw :
    step (State.reset.withFetchWord 48 0x600000000002) =
      .next { State.reset with turn := 1, results := [.bytes [0x00, 0x00, 0x00, 0x00]] } := rfl

/-- Section 5, row 25, as the first step after reset. -/
theorem test_step_evConnect :
    step (State.reset.withFetchWord 16 0x1000) = .next { State.reset with turn := 1 } := rfl

/-- A reserved opcode at the command port (R86, U6). -/
theorem test_step_illegal :
    step { State.reset with cwords := [0x700000000000] } = .refused (.illegalWord .reservedOpcode) := rfl

/-- Section 5, row 35, with a command whose stream is short (R82, R200). -/
theorem test_step_rst :
    step { at_ (sess .connected true 4000 true 300) true with
             rst := true, cwords := [0x100000000002, 0x800000000000], cdata := [1] } =
      .next { State.reset with tConnected := true, cwords := [0x800000000000] } := rfl

/-! ## What meets the hypotheses of the statements -/

/-- A state with one input pending at each port in turn. -/
theorem witness_pick_host : pick { State.reset with cwords := [0x800000000000] } = some .host := rfl

theorem witness_pick_transport : pick { State.reset with ewords := [0x3001], edata := [7] } = some .transport := rfl

theorem witness_pick_timeBase : pick { State.reset with ticks := 1 } = some .timeBase := rfl

theorem witness_pick_level : pick { State.reset with levels := [true] } = some .level := rfl

theorem witness_pick_outbox : pick { State.reset with outbox := [.instruction 3] } = some .outbox := rfl

theorem witness_pick_none : pick { State.reset with cwords := [0x100000000001] } = none := rfl

theorem witness_DecodeOfEncodeGivesBack (payload : List Byte) (h : payload.length = 255) :
    WellFormed (.send 1 2 payload) = true ∧ WellFormed (.encRaw [32767, -32768]) = true :=
  ⟨by simp [WellFormed, Config.sendMax, h], by decide⟩

theorem witness_EncodeOfDecodeGivesBack :
    decodeWith table8005 (.command 0x40C800980000 []) = .ok (.encByteWrite 200 152 0) := rfl

/-- Lists of every length exist, so the bounds 65535, 255 and 65530 are met at their ends. -/
theorem witness_lengths_at_their_bounds (n : Nat) :
    (List.replicate n (0 : Byte)).length = n ∧ (List.replicate n (0 : Int)).length = n := by simp

theorem witness_EncodersLoseNothing :
    (∀ v ∈ [32767, -32768] ++ [32767, -32768], -32768 ≤ v ∧ v ≤ (32767 : Int)) ∧
      rawPayload [32767, -32768] = rawPayload [32767, -32768] := by decide

theorem witness_SendIsWritten :
    let s := at_ (sess .connected false 0 true 900) true
    s.session.ls = .connected ∧ s.tConnected = true ∧ s.session.busy = false := by decide

theorem witness_SendLeavesNoTrace :
    State.reset.session.ls ≠ .connected ∧ (at_ (sess .connected false 0 true 900) false).tConnected = false ∧
      (at_ (sess .connected true 1 true 900) true).session.busy = true := by decide

theorem witness_EvMessage :
    (at_ (sess .connected false 0 true 1) true).session.ls = .connected ∧ State.reset.session.ls ≠ .connected := by
  decide

/-- For both statements about `RST`: a short and a whole command and event, and none. -/
theorem witness_RstReconstructsTheSession :
    ({ State.reset with rst := true } : State).cwords = [] ∧ ({ State.reset with rst := true } : State).ewords = [] ∧
    let short : State := { State.reset with rst := true, cwords := [0x100000000001], ewords := [0x3001] }
    let whole : State :=
      { State.reset with rst := true, cwords := [0x100000000001], cdata := [9], ewords := [0x3001], edata := [9] }
    short.rst = true ∧ short.cdata.length < announcedBeats 0x100000000001 ∧
      short.edata.length < announcedBytes 0x3001 ∧ whole.rst = true ∧
      announcedBeats 0x100000000001 ≤ whole.cdata.length ∧ announcedBytes 0x3001 ≤ whole.edata.length := by decide

theorem witness_StepRunsTheDecodedInstruction :
    decode (.command 0x800000000000 (([] : List Half).take (announcedBeats 0x800000000000))) = .ok .scan ∧
      decode (.event 0x3001 (([7] : List Byte).take (announcedBytes 0x3001))) = .ok (.evMessage [7]) ∧
      decode (.out (.instruction 3)) = .ok .instWrite := ⟨rfl, rfl, rfl⟩

theorem witness_StepRefusesIllegalWords :
    pick { State.reset with cwords := [0x700000000000] } = some .host ∧
      (¬∃ i, decode (.command 0x700000000000 (([] : List Half).take (announcedBeats 0x700000000000))) = .ok i) ∧
      pick { State.reset with ewords := [0x4000] } = some .transport ∧
      (¬∃ i, decode (.event 0x4000 (([] : List Byte).take (announcedBytes 0x4000))) = .ok i) :=
  ⟨rfl, fun ⟨_, h⟩ => (nomatch h), rfl, fun ⟨_, h⟩ => (nomatch h)⟩

theorem witness_PlacedTableWordRunsNext : decodeTableWord 48 0x800000000000 = some .scan := rfl

theorem witness_LegalPortsNeverStopTheBlock :
    State.PortsLegal { State.reset with cwords := [0x800000000000], ewords := [0x3001], edata := [7] } :=
  ⟨⟨⟨.scan, rfl⟩, trivial⟩, ⟨⟨.evMessage [7], rfl⟩, trivial⟩, rfl⟩

/-- A connected, busy session meets the invariant of a family-A instance, and one with a snapshot that of family B. -/
theorem witness_invariant :
    (sess .connected true 5000 true 45000).Inv paramsA ∧
      Session.Inv paramsB ⟨.connected, false, 0, true, 2500, some [1]⟩ := by
  constructor <;> constructor <;> simp [sess, paramsA, paramsB, Config.busyTicks, Config.busyTimeoutMs, Config.tickMs,
    Config.wdTicks, Config.wdTimeoutMs, Session.handleValid, Config.msgMax]

theorem witness_StepKeepsTheInvariant :
    State.reset.Inv ∧ step State.reset = .next State.reset ∧ Reachable State.reset := by
  refine ⟨?_, rfl, .reset⟩
  constructor <;> simp [State.reset, Session.reset, Session.handleValid]

/-- An input row and an output row that answer a next state. -/
theorem witness_exec_answers :
    exec .scan State.reset = .next (State.reset.commit (onScan Config.params Session.reset)) ∧
      exec .tTeardown State.reset = .next (State.reset.emit .teardown) ∧ Instr.isInput .scan = true := ⟨rfl, rfl, rfl⟩

/-- An absent snapshot after a step, and an `RST` that clears one. -/
theorem witness_OnlyMessagesWriteTheSnapshot :
    let s : State := { at_ ⟨.connected, false, 0, true, 1, some [1]⟩ true with rst := true }
    step s = .next s.hardwareReset ∧ s.hardwareReset.session.snap = none := ⟨rfl, rfl⟩

theorem witness_FamilyChangesWatchdogAndSnapshotOnly :
    reaction paramsA true (sess .scanning false 0 false 0) .evConnect =
        some ⟨sess .connected false 0 true 45000, [.subscribe 1 3], none⟩ ∧
      reaction { paramsA with family := .b } true (sess .scanning false 0 false 0) .evConnect =
        some ⟨sess .connected false 0 true 2500, [.subscribe 1 3], none⟩ := by decide

theorem witness_IdleAndDisconnectedLookAlike :
    Session.Alike (sess .idle false 0 false 0) (sess .disconnected false 0 false 0) ∧
      runInputs [⟨true, .isConnected⟩] State.reset =
        .next { State.reset with tConnected := true, results := [.bit false] } :=
  ⟨⟨.inr ⟨.inl rfl, .inr rfl⟩, rfl⟩, rfl⟩

/-- Runs of `k` ticks for the statements about the busy gate: no other input, no completion, no teardown. -/
theorem witness_tick_runs (k : Nat) :
    tickCount (tickRun true k) = k ∧
      ∀ x ∈ tickRun true k, x.input.isInput = true ∧ x.input ≠ .evWriteDone ∧
        (isTeardown x.input = true → Config.params.busyOnDisconnect = .runToExpiry) := by
  refine ⟨?_, fun x hx => ?_⟩
  · simp [tickCount, tickRun, List.countP_replicate]
  · rw [List.eq_of_mem_replicate hx]; exact ⟨rfl, by decide, fun h => absurd h (by decide)⟩

/-- An eligible session, for the same statements. -/
theorem witness_eligible : (sess .connected false 0 true 900).ls = .connected ∧
    (sess .connected false 0 true 900).busy = false ∧ (4999 : Nat) < 5000 := by decide

/-- A session just armed, and a run in which a message arrives before the interval has passed. -/
theorem witness_FedWatchdogNeverFires :
    let s : State := at_ { sess .connected false 0 true 0 with wdCnt := wdLoad Config.params } true
    s.session.ls = .connected ∧ s.session.wdCnt = wdLoad Config.params ∧
      FedWithin (Config.wdTicks Config.params.family) 0 [⟨true, .evTick⟩, ⟨true, .evMessage []⟩] := by
  refine ⟨rfl, rfl, ?_⟩
  have h : 1 < Config.wdTicks Config.params.family := by cases Config.params.family <;> decide
  simpa [FedWithin, isMessage] using h

theorem witness_UnfedWatchdog : (0 : Nat) < Config.wdTicks Config.params.family ∧
    Config.wdTicks Config.params.family - 1 < Config.wdTicks Config.params.family := by
  have h := wdTicks_pos Config.params.family
  omega

theorem witness_NoLinkErrorAfterTeardown :
    ∀ x ∈ [(⟨true, .evTick⟩ : Stimulus), ⟨true, .evMessage [1]⟩, ⟨false, .scan⟩],
      x.input.isInput = true ∧ x.input ≠ .evConnect := by decide

theorem witness_CallerTransformsExpand : (65535 : Nat) < 65536 ∧ 1023 + 64512 < 65536 ∧ (-301 : Int) < -300 ∧
    (300 : Int) < 301 := by decide

end Sys2Proof.Tests
end

section
/-! SUPPORT and the statements of spec/10_state.md: which handlers write the sensor snapshot (R27), what that means for a
meaning and for a step, the view of R28 and the values of R37. -/

namespace Sys2Proof.Machine

/-! ## The snapshot after each handler -/

@[simp] theorem onScan_snap (p : Params) (s : Session) : (onScan p s).session.snap = s.snap := by
  unfold onScan
  split <;> simp

@[simp] theorem onConnectCommand_snap (peripheralId : PeripheralId) (s : Session) :
    (onConnectCommand peripheralId s).session.snap = s.snap := by
  unfold onConnectCommand
  split <;> rfl

@[simp] theorem onDisconnect_snap (p : Params) (s : Session) : (onDisconnect p s).session.snap = s.snap :=
  s.teardown_snap p

@[simp] theorem onSreset_snap (p : Params) (s : Session) : (onSreset p s).session.snap = s.snap :=
  s.teardown_snap p

@[simp] theorem onIsConnected_snap (level : Bool) (s : Session) : (onIsConnected level s).session.snap = s.snap := rfl

@[simp] theorem onSend_snap (p : Params) (level : Bool) (service : ServiceId) (characteristic : CharId)
    (payload : List Byte) (s : Session) :
    (onSend p level service characteristic payload s).session.snap = s.snap := by
  unfold onSend
  split <;> rfl

@[simp] theorem onEvConnect_snap (p : Params) (s : Session) : (onEvConnect p s).session.snap = s.snap := by
  unfold onEvConnect
  split <;> rfl

@[simp] theorem onEvWriteDone_snap (s : Session) : (onEvWriteDone s).session.snap = s.snap := rfl

theorem storeMessage_snap (p : Params) (rawBytes : List Byte) (s : Session) :
    (storeMessage p rawBytes s).snap = if p.family = .b then some rawBytes else s.snap := by
  unfold storeMessage
  split <;> simp [*]

/-- The one handler that writes the snapshot (R27, R139). -/
theorem onEvMessage_snap (p : Params) (rawBytes : List Byte) (s : Session) :
    (onEvMessage p rawBytes s).session.snap =
      if s.ls = .connected ∧ p.family = .b then some rawBytes else s.snap := by
  by_cases hls : s.ls = .connected
  · simp [onEvMessage, hls, storeMessage_snap]
  · simp [onEvMessage, hls, Reaction.droppedEvent]

@[simp] theorem Session.tickWatchdog_snap (p : Params) (s : Session) :
    (s.tickWatchdog p).session.snap = s.snap := by
  obtain ⟨-, hfire⟩ | ⟨-, _, -, hcount⟩ := s.tickWatchdog_cases p
  · rw [hfire]
  · rw [hcount]

@[simp] theorem onEvTick_snap (p : Params) (s : Session) : (onEvTick p s).session.snap = s.snap := by
  simp [onEvTick]

/-- No reaction but a message's writes the snapshot. -/
theorem reaction_snap_of_not_message (p : Params) (level : Bool) (s : Session) (i : Instr) (r : Reaction)
    (hi : isMessage i = false) (h : reaction p level s i = some r) : r.session.snap = s.snap := by
  cases i <;> simp only [reaction, isMessage, Option.some.injEq, reduceCtorEq] at h hi <;> subst h
  all_goals simp

/-! ## The snapshot after a meaning -/

theorem exec_evMessage_snap (rawBytes : List Byte) (s t : State) (h : exec (.evMessage rawBytes) s = .next t) :
    t.session.snap =
      if s.session.ls = .connected ∧ Config.params.family = .b then some rawBytes else s.session.snap := by
  rw [exec_of_reaction (.evMessage rawBytes) s _ rfl] at h
  cases h
  exact onEvMessage_snap Config.params rawBytes s.session

theorem exec_snap_of_not_message (i : Instr) (s t : State) (hi : isMessage i = false) (h : exec i s = .next t) :
    t.session.snap = s.session.snap := by
  obtain ⟨r, hr, rfl⟩ | ⟨-, hsession, -⟩ := exec_next_cases i s t h
  · exact reaction_snap_of_not_message _ _ _ i r hi hr
  · rw [hsession]

/-- A meaning replaces a snapshot, it never takes one away. -/
theorem snap_eq_none_of_exec (i : Instr) (s t : State) (h : exec i s = .next t) (ht : t.session.snap = none) :
    s.session.snap = none := by
  cases i
  case evMessage rawBytes =>
    rw [exec_evMessage_snap rawBytes s t h] at ht
    split at ht
    · cases ht
    · exact ht
  all_goals exact (exec_snap_of_not_message _ s t rfl h).symm.trans ht

/-! ## The snapshot after a step -/

@[simp] theorem State.driveLevel_session (s : State) : s.driveLevel.session = s.session := by
  unfold State.driveLevel
  split <;> rfl

/-- Only `RST` clears the snapshot (R27). -/
theorem snap_eq_none_of_step (s t : State) (h : step s = .next t) (ht : t.session.snap = none) :
    s.session.snap = none ∨ s.rst = true := by
  obtain rfl | ⟨hrst, -⟩ | rfl | ⟨source, w, u, i, hfetch, -, hexec⟩ := step_next_cases s t h
  · exact .inl ht
  · exact .inr hrst
  · exact .inl (s.driveLevel_session ▸ ht)
  · obtain ⟨hsession, -⟩ := fetch_frame source s w u hfetch
    exact .inl (hsession ▸ snap_eq_none_of_exec i u t hexec ht)

/-! ## The view -/

theorem Session.movingStatus_of_familyA (p : Params) (s : Session) (hp : p.family = .a) : s.movingStatus p = none := by
  simp [Session.movingStatus, hp]

/-- In family B the view reads the snapshot held, if one is (R28). -/
theorem Session.movingStatus_of_familyB (p : Params) (s : Session) (hp : p.family = .b) :
    s.movingStatus p = s.snap.bind (·[p.movingIdx]?) := by
  cases hs : s.snap <;> simp [Session.movingStatus, hp, hs]

end Sys2Proof.Machine

namespace Sys2Proof.Proofs
open Sys2Proof.Machine

/-- Settles O43: among the handlers only a message's writes the snapshot, and of the ways a step can come to its next
state only `RST` clears it. -/
theorem onlyMessagesWriteTheSnapshot : Obligations.OnlyMessagesWriteTheSnapshot := by
  refine ⟨fun i s t h => ?_, snap_eq_none_of_step⟩
  cases i
  case evMessage rawBytes => exact exec_evMessage_snap rawBytes s t h
  all_goals exact exec_snap_of_not_message _ s t rfl h

/-- Settles O28: the values R37 lists, read off `Session.reset`. -/
theorem resetLeavesTheSpecsValues : Obligations.ResetLeavesTheSpecsValues :=
  ⟨rfl, rfl, rfl, rfl, rfl, rfl, rfl, rfl⟩

/-- Settles O44: absent in family A, and in family B a lookup in the snapshot held. -/
theorem movingStatusIsAView : Obligations.MovingStatusIsAView := by
  intro p s b
  cases hp : p.family
  case a => simp [s.movingStatus_of_familyA p hp]
  case b => simp [s.movingStatus_of_familyB p hp, Option.bind_eq_some_iff, List.getElem?_eq_some_iff]

end Sys2Proof.Proofs
end

section
/-! SUPPORT and the statements of spec/30_encoding.md that are about whole frames and the caller's transforms: the bytes
of a frame written on numbers (R71, R72), its length and length field (R73), and the two expansions of R89. -/

namespace Sys2Proof.Machine

/-! ## The bytes of a frame -/

/-- A 16-bit field written on numbers, low byte first (R52). -/
theorem le16_eq_ofNat (v : Half) : le16 v = [BitVec.ofNat 8 (v.toNat % 256), BitVec.ofNat 8 (v.toNat / 256)] := by
  rw [le16, lo8_eq_ofNat, hi8_eq_ofNat]

@[simp] theorem le16_length (v : Half) : (le16 v).length = 2 := rfl

/-- A frame is its body and then the CRC of that body, written on numbers (R110). -/
theorem frameA_of_body (T : CrcTable) (deviceId : Byte) (address : Half) (payload body : List Byte)
    (h : frameBody deviceId address payload = body) :
    frameA T deviceId address payload =
      body ++ [BitVec.ofNat 8 ((computeCrc T 0 body).toNat % 256),
        BitVec.ofNat 8 ((computeCrc T 0 body).toNat / 256)] := by
  rw [frameA, h, le16_eq_ofNat]

/-! ## The encoder commands -/

theorem exec_encByteWrite_answers (s : State) (deviceId : Byte) (address : Half) (value : Byte) :
    Answers s (exec (.encByteWrite deviceId address value) s) s.session []
      [.bytes (frameA Config.params.crcTable deviceId address [value])] :=
  answers_return s _

theorem exec_encWordWrite_answers (s : State) (deviceId : Byte) (address : Half) (value : Half) :
    Answers s (exec (.encWordWrite deviceId address value) s) s.session []
      [.bytes (frameA Config.params.crcTable deviceId address (le16 value))] :=
  answers_return s _

/-! ## The length field -/

theorem lengthField_toNat (n : Nat) (h : n + 5 < 65536) : (lengthField n).toNat = n + 5 := by
  rw [lengthField, BitVec.toNat_ofNat]; omega

theorem lo8_add_hi8 (v : Half) : (lo8 v).toNat + 256 * (hi8 v).toNat = v.toNat := by
  rw [lo8_toNat, hi8_toNat]; omega

/-- The header's 4 bytes, the id, the length, the instruction and the address stand before the payload (R70). -/
@[simp] theorem frameBody_length (deviceId : Byte) (address : Half) (payload : List Byte) :
    (frameBody deviceId address payload).length = payload.length + 10 := by
  simp [frameBody, Config.header]; omega

@[simp] theorem frameA_length (T : CrcTable) (deviceId : Byte) (address : Half) (payload : List Byte) :
    (frameA T deviceId address payload).length = payload.length + 12 := by
  simp [frameA]

theorem frameA_lengthLo (T : CrcTable) (deviceId : Byte) (address : Half) (payload : List Byte) :
    (frameA T deviceId address payload)[5]? = some (lo8 (lengthField payload.length)) := rfl

theorem frameA_lengthHi (T : CrcTable) (deviceId : Byte) (address : Half) (payload : List Byte) :
    (frameA T deviceId address payload)[6]? = some (hi8 (lengthField payload.length)) := rfl

/-! ## The caller's transforms -/

/-- Where the folded magnitude is a `u16`, the word write carries it unchanged (R89). -/
theorem encWordWriteDir_of_lt (deviceId : Byte) (address : Half) (dir : Bool) (magnitude : Nat)
    (h : directionBase dir + magnitude < 65536) :
    ∃ v : Half, encWordWriteDir deviceId address dir magnitude = some (.encWordWrite deviceId address v) ∧
      v.toNat = directionBase dir + magnitude :=
  ⟨_, if_pos h, by rw [BitVec.toNat_ofNat]; omega⟩

end Sys2Proof.Machine

namespace Sys2Proof.Proofs
open Sys2Proof.Machine

/-- Settles O11: the frame on the result port is its 11-byte body, known byte by byte, and the CRC of that body. -/
theorem byteWriteFrameBytes : Obligations.ByteWriteFrameBytes := by
  intro s deviceId address value body c
  have hbody : frameBody deviceId address [value] = body := by
    rw [frameBody_byte, lo8_eq_ofNat, hi8_eq_ofNat]
  rw [← frameA_of_body _ deviceId address [value] body hbody]
  exact exec_encByteWrite_answers s deviceId address value

/-- Settles O12: as for the byte write, with a 12-byte body whose payload is the value, low byte first. -/
theorem wordWriteFrameBytes : Obligations.WordWriteFrameBytes := by
  intro s deviceId address value body c
  have hbody : frameBody deviceId address (le16 value) = body := by
    rw [frameBody_word, lo8_eq_ofNat address, hi8_eq_ofNat address, lo8_eq_ofNat value, hi8_eq_ofNat value]
  rw [← frameA_of_body _ deviceId address (le16 value) body hbody]
  exact exec_encWordWrite_answers s deviceId address value

/-- Settles O14: the two bytes are those of the length field, which is the payload's length plus 5 without wrapping. -/
theorem frameLengthFieldCounts : Obligations.FrameLengthFieldCounts := by
  intro T deviceId address payload hfits frame
  have hlength : frame.length = payload.length + 12 := frameA_length T deviceId address payload
  refine ⟨hlength, _, _, frameA_lengthLo T deviceId address payload, frameA_lengthHi T deviceId address payload, ?_⟩
  rw [lo8_add_hi8, lengthField_toNat _ hfits, hlength]
  rfl

/-- Settles O56: each direction is the fold with its own base, and the clamp is a minimum and a maximum. -/
theorem callerTransformsExpand : Obligations.CallerTransformsExpand := by
  refine ⟨fun d a magnitude => ⟨fun h => ?_, encWordWriteDir_of_lt d a true magnitude⟩, fun v => ?_⟩
  · have hbase : directionBase false + magnitude = magnitude := Nat.zero_add magnitude
    simpa only [hbase] using encWordWriteDir_of_lt d a false magnitude (hbase.symm ▸ h)
  · unfold clamp300
    omega

end Sys2Proof.Proofs
end

section
/-! SUPPORT and the statements of spec/40_crc.md: the fold of the CRC Engine and its update step written on numbers
(R100, R101), and that the CRC and encoder commands answer alike in every state (R58, R105, R118). -/

namespace Sys2Proof.Machine

/-! ## The update step on numbers -/

/-- The index of R101 written on numbers: the accumulator's high byte is a shift by 8, and both operands of the
exclusive or are bytes, so the mask drops nothing. -/
theorem crcIndex_eq_ofNat (acc : Half) (b : Byte) :
    crcIndex acc b = BitVec.ofNat 8 (((acc.toNat >>> 8) ^^^ b.toNat) &&& 0xFF) := by
  have hmask (n : Nat) : n &&& 0xFF = n % 2 ^ 8 := Nat.and_two_pow_sub_one_eq_mod n 8
  have hbyte : (crcIndex acc b).toNat = (acc.toNat >>> 8) ^^^ b.toNat := by
    rw [crcIndex, BitVec.toNat_xor, hi8_toNat, Nat.shiftRight_eq_div_pow]
  rw [hmask, ← hbyte, Nat.mod_eq_of_lt (crcIndex acc b).isLt, BitVec.ofNat_toNat, BitVec.setWidth_eq]

/-- The update step of R101 written on numbers: the width of the accumulator is the mask of R102. -/
theorem crcStep_toNat (T : CrcTable) (acc : Half) (b : Byte) :
    (crcStep T acc b).toNat =
      ((acc.toNat <<< 8) &&& 0xFFFF) ^^^ (T (BitVec.ofNat 8 (((acc.toNat >>> 8) ^^^ b.toNat) &&& 0xFF))).toNat := by
  have hmask (n : Nat) : n &&& 0xFFFF = n % 2 ^ 16 := Nat.and_two_pow_sub_one_eq_mod n 16
  rw [crcStep, BitVec.toNat_xor, BitVec.toNat_shiftLeft, hmask, crcIndex_eq_ofNat]

/-! ## The fold -/

@[simp] theorem computeCrc_nil (T : CrcTable) (seed : Half) : computeCrc T seed [] = seed := rfl

theorem computeCrc_concat (T : CrcTable) (seed : Half) (bytes : List Byte) (b : Byte) :
    computeCrc T seed (bytes ++ [b]) = crcStep T (computeCrc T seed bytes) b :=
  List.foldl_concat ..

/-! ## The commands -/

theorem exec_crcCompute_answers (s : State) (seed : Half) (bytes : List Byte) :
    Answers s (exec (.crcCompute seed bytes) s) s.session [] [.word (computeCrc Config.params.crcTable seed bytes)] :=
  answers_return s _

theorem exec_encRaw_answers (s : State) (values : List Int) :
    Answers s (exec (.encRaw values) s) s.session [] [.bytes (rawPayload values)] :=
  answers_return s _

end Sys2Proof.Machine

namespace Sys2Proof.Proofs
open Sys2Proof.Machine

/-- Settles O8: the command returns the fold, which is the seed on no bytes and whose last step, for one byte more, is
the update step on numbers. -/
theorem crcComputeFoldsTheUpdateStep : Obligations.CrcComputeFoldsTheUpdateStep := by
  refine fun s seed => ⟨by simpa using exec_crcCompute_answers s seed [], fun bytes b => ?_⟩
  let acc := computeCrc Config.params.crcTable seed bytes
  refine ⟨acc, crcStep Config.params.crcTable acc b, exec_crcCompute_answers s seed bytes, ?_,
    crcStep_toNat Config.params.crcTable acc b⟩
  rw [← computeCrc_concat]
  exact exec_crcCompute_answers s seed (bytes ++ [b])

/-- Settles O10: each of the four commands has its result named by its own lemma, over every state. -/
theorem pureCommandsIgnoreTheState : Obligations.PureCommandsIgnoreTheState := by
  rintro i (⟨seed, bytes, rfl⟩ | ⟨d, a, v, rfl⟩ | ⟨d, a, v, rfl⟩ | ⟨values, rfl⟩)
  · exact ⟨_, fun s => exec_crcCompute_answers s seed bytes⟩
  · exact ⟨_, fun s => exec_encByteWrite_answers s d a v⟩
  · exact ⟨_, fun s => exec_encWordWrite_answers s d a v⟩
  · exact ⟨_, fun s => exec_encRaw_answers s values⟩

end Sys2Proof.Proofs
end

section
/-! SUPPORT and the statements of spec/42_link_session.md: each handler of the session by the condition it branches on
(R130 to R141), and what its meaning answers. -/

namespace Sys2Proof.Machine

/-! ## What the handlers branch on -/

/-- A handle exists in two of the four link states (R22). -/
theorem Session.handle_cases (s : Session) :
    (s.handleValid = true ∧ (s.ls = .scanning ∨ s.ls = .connected)) ∨
    (s.handleValid = false ∧ (s.ls = .idle ∨ s.ls = .disconnected)) := by
  cases hls : s.ls <;> simp [Session.handleValid, hls]

theorem Session.eligible_eq_false_iff (s : Session) (level : Bool) :
    s.eligible level = false ↔ s.ls ≠ .connected ∨ level = false ∨ s.busy = true := by
  rw [← Bool.not_eq_true, s.eligible_iff level]
  simp only [not_and_or, Bool.not_eq_true, Bool.not_eq_false, ne_eq]

theorem wdLoad_of_familyA (p : Params) (hp : p.family = .a) : wdLoad p = 45000 := by rw [wdLoad, hp]; rfl

theorem wdLoad_of_familyB (p : Params) (hp : p.family = .b) : wdLoad p = 2500 := by rw [wdLoad, hp]; rfl

/-! ## The teardown -/

theorem Session.teardown_of_runToExpiry (p : Params) (s : Session) (hp : p.busyOnDisconnect = .runToExpiry) :
    s.teardown p = s.cancelWd := by
  rw [Session.teardown, hp]

theorem Session.teardown_of_cancelAndClear (p : Params) (s : Session) (hp : p.busyOnDisconnect = .cancelAndClear) :
    s.teardown p = s.cancelWd.openGate := by
  rw [Session.teardown, hp]

theorem Session.teardownRequests_eq (s : Session) :
    s.teardownRequests = if s.ls = .scanning ∨ s.ls = .connected then [.teardown] else [] := by
  simp only [Session.teardownRequests, s.handleValid_iff]

/-! ## The handlers, one equation per branch -/

theorem onScan_of_handle (p : Params) (s : Session) (h : s.handleValid = true) :
    onScan p s = ⟨{ s.teardown p with ls := .scanning }, [.teardown, .discover], some .completion⟩ := by
  simp [onScan, Session.teardownRequests, h]

theorem onScan_of_no_handle (p : Params) (s : Session) (h : s.handleValid = false) :
    onScan p s = ⟨{ s with ls := .scanning }, [.discover], some .completion⟩ := by
  simp [onScan, Session.teardownRequests, h]

theorem onConnectCommand_of_handle (peripheralId : PeripheralId) (s : Session) (h : s.handleValid = true) :
    onConnectCommand peripheralId s = ⟨s, [.connect peripheralId], some .completion⟩ := if_pos h

theorem onConnectCommand_of_no_handle (peripheralId : PeripheralId) (s : Session) (h : s.handleValid = false) :
    onConnectCommand peripheralId s = .droppedCommand s := by
  simp [onConnectCommand, h]

theorem onSend_of_eligible (p : Params) (level : Bool) (service : ServiceId) (characteristic : CharId)
    (payload : List Byte) (s : Session) (h : s.eligible level = true) :
    onSend p level service characteristic payload s =
      ⟨s.closeGate, [.write p.writeFraming service characteristic payload], some .completion⟩ := if_pos h

theorem onSend_of_not_eligible (p : Params) (level : Bool) (service : ServiceId) (characteristic : CharId)
    (payload : List Byte) (s : Session) (h : s.eligible level = false) :
    onSend p level service characteristic payload s = .droppedCommand s := by
  simp [onSend, h]

theorem onEvConnect_of_handle (p : Params) (s : Session) (h : s.handleValid = true) :
    onEvConnect p s = ⟨{ s.armWd p with ls := .connected }, [.subscribe p.rxService p.rxChar], none⟩ := if_pos h

theorem onEvConnect_of_no_handle (p : Params) (s : Session) (h : s.handleValid = false) :
    onEvConnect p s = .droppedEvent s := by
  simp [onEvConnect, h]

theorem storeMessage_of_familyA (p : Params) (rawBytes : List Byte) (s : Session) (hp : p.family = .a) :
    storeMessage p rawBytes s = s := by
  rw [storeMessage, hp]

theorem storeMessage_of_familyB (p : Params) (rawBytes : List Byte) (s : Session) (hp : p.family = .b) :
    storeMessage p rawBytes s = { s with snap := some rawBytes } := by
  rw [storeMessage, hp]

theorem onEvMessage_of_connected (p : Params) (rawBytes : List Byte) (s : Session) (h : s.ls = .connected) :
    onEvMessage p rawBytes s = ⟨(storeMessage p rawBytes s).armWd p, [], none⟩ := if_pos h

theorem onEvMessage_of_not_connected (p : Params) (rawBytes : List Byte) (s : Session) (h : s.ls ≠ .connected) :
    onEvMessage p rawBytes s = .droppedEvent s := if_neg h

/-- A tick is the busy timer's tick and a new watchdog count: the next interval's, with the error reported, if the count
stood at 1, else one less (R140, R141). -/
theorem onEvTick_eq (p : Params) (s : Session) :
    ∃ count out, onEvTick p s = ⟨{ s.tickBusy with wdCnt := count }, out, none⟩ ∧
      if s.wdCnt.toNat = 1 then count = wdLoad p ∧ out = [.linkError Config.reasonDataStopped]
      else count.toNat = s.wdCnt.toNat - 1 ∧ out = [] := by
  have hcases := s.tickBusy.tickWatchdog_cases p
  rw [s.tickBusy_wdCnt] at hcases
  obtain ⟨hone, hfire⟩ | ⟨hone, count, hcount, htick⟩ := hcases
  · exact ⟨_, _, hfire, by simp [hone]⟩
  · exact ⟨_, _, htick, by simp [hone, hcount]⟩

/-! ## The meanings -/

/-- The meaning of an input answers with the reaction of R11's step model. -/
theorem exec_answers_of_reaction (i : Instr) (s : State) (r : Reaction)
    (h : reaction Config.params s.tConnected s.session i = some r) :
    Answers s (exec i s) r.session r.out r.res.toList := by
  rw [exec_of_reaction i s r h]
  exact answers_commit s r

end Sys2Proof.Machine

namespace Sys2Proof.Proofs
open Sys2Proof.Machine

/-- Settles O16: the answer turns on the handle, and with one on what the teardown does to the gate. -/
theorem scanTearsDownThenDiscovers : Obligations.ScanTearsDownThenDiscovers := by
  intro s torn
  obtain ⟨hhandle, hls⟩ | ⟨hhandle, hls⟩ := s.session.handle_cases
  · have hanswers := exec_answers_of_reaction .scan s _ (congrArg some (onScan_of_handle _ _ hhandle))
    cases hmode : Config.params.busyOnDisconnect
    case runToExpiry =>
      rw [Session.teardown_of_runToExpiry _ _ hmode] at hanswers
      obtain hls | hls := hls <;> rw [hls] <;> exact hanswers
    case cancelAndClear =>
      rw [Session.teardown_of_cancelAndClear _ _ hmode] at hanswers
      obtain hls | hls := hls <;> rw [hls] <;> exact hanswers
  · have hanswers := exec_answers_of_reaction .scan s _ (congrArg some (onScan_of_no_handle _ _ hhandle))
    obtain hls | hls := hls <;> rw [hls] <;> exact hanswers

/-- Settles O18: both commands are the teardown and their own final link state. -/
theorem disconnectAndSresetTearDown : Obligations.DisconnectAndSresetTearDown := by
  intro s i final hi torn out
  have hanswers : Answers s (exec i s) { s.session.teardown Config.params with ls := final } out [.completion] := by
    have hout : out = s.session.teardownRequests := s.session.teardownRequests_eq.symm
    rw [hout]
    obtain ⟨rfl, rfl⟩ | ⟨rfl, rfl⟩ := hi
    · exact exec_answers_of_reaction .disconnect s _ rfl
    · exact exec_answers_of_reaction .sreset s _ rfl
  cases hmode : Config.params.busyOnDisconnect
  case runToExpiry => rwa [Session.teardown_of_runToExpiry _ _ hmode] at hanswers
  case cancelAndClear => rwa [Session.teardown_of_cancelAndClear _ _ hmode] at hanswers

/-- Settles O21: the answer turns on the handle; the interval is the family's watchdog load. -/
theorem evConnectSubscribesAndArms : Obligations.EvConnectSubscribesAndArms := by
  intro s interval connected subscribe
  have hinterval : interval = wdLoad Config.params := by
    cases hfamily : Config.params.family
    case a => simp only [interval, hfamily, wdLoad_of_familyA _ hfamily]
    case b => simp only [interval, hfamily, wdLoad_of_familyB _ hfamily]
  have hconnected : connected = { s.session.armWd Config.params with ls := .connected } := by
    simp only [connected, hinterval, Session.armWd]
  obtain ⟨hhandle, hls⟩ | ⟨hhandle, hls⟩ := s.session.handle_cases
  · have hanswers := exec_answers_of_reaction .evConnect s _ (congrArg some (onEvConnect_of_handle _ _ hhandle))
    rw [← hconnected] at hanswers
    obtain hls | hls := hls <;> rw [hls] <;> exact hanswers
  · have hanswers := exec_answers_of_reaction .evConnect s _ (congrArg some (onEvConnect_of_no_handle _ _ hhandle))
    obtain hls | hls := hls <;> rw [hls] <;> exact hanswers

/-- Settles O24: the busy timer's fields are those after its own tick, the watchdog's follow its two cases. -/
theorem evTickCountsBothTimers : Obligations.EvTickCountsBothTimers := by
  intro s
  obtain ⟨count, out, htick, hwatchdog⟩ := onEvTick_eq Config.params s.session
  refine ⟨_, exec_of_reaction .evTick s _ (congrArg some htick), s.commit_samePorts _, List.append_nil _,
    s.session.tickBusy_ls, s.session.tickBusy_wdActive, s.session.tickBusy_snap, s.session.tickBusy_busyCnt,
    s.session.tickBusy_busy, ?_⟩
  split at hwatchdog
  case isTrue hone =>
    obtain ⟨rfl, rfl⟩ := hwatchdog
    rw [if_pos hone]
    refine ⟨(wdLoad_toNat Config.params).trans ?_, rfl⟩
    cases Config.params.family <;> rfl
  case isFalse hone =>
    obtain ⟨hcount, rfl⟩ := hwatchdog
    rw [if_neg hone]
    exact ⟨hcount, List.append_nil _⟩

/-- Settles O17: the answer turns on the handle. -/
theorem connectAsksOnlyWithAHandle : Obligations.ConnectAsksOnlyWithAHandle := by
  intro s id
  obtain ⟨hhandle, hls⟩ | ⟨hhandle, hls⟩ := s.session.handle_cases
  · have hanswers :=
      exec_answers_of_reaction (.connect id) s _ (congrArg some (onConnectCommand_of_handle _ _ hhandle))
    obtain hls | hls := hls <;> rw [hls] <;> exact hanswers
  · have hanswers :=
      exec_answers_of_reaction (.connect id) s _ (congrArg some (onConnectCommand_of_no_handle _ _ hhandle))
    obtain hls | hls := hls <;> rw [hls] <;> exact hanswers

/-- Settles O19: the bit returned is `linkUp`, which is the conjunction. -/
theorem isConnectedReturnsTheConjunction : Obligations.IsConnectedReturnsTheConjunction :=
  fun s => ⟨s.session.linkUp s.tConnected, exec_answers_of_reaction .isConnected s _ rfl, by simp [Session.linkUp]⟩

/-- Settles O20: the two conditions are `eligible` and its negation. -/
theorem sendIsWrittenOrLeavesNoTrace : Obligations.SendIsWrittenOrLeavesNoTrace := by
  intro s service characteristic payload
  constructor
  · intro h
    have heligible := (s.session.eligible_iff s.tConnected).2 h
    exact exec_answers_of_reaction (.send service characteristic payload) s _
      (congrArg some (onSend_of_eligible _ _ _ _ _ _ heligible))
  · intro h
    have hdropped := (s.session.eligible_eq_false_iff s.tConnected).2 h
    exact exec_answers_of_reaction (.send service characteristic payload) s _
      (congrArg some (onSend_of_not_eligible _ _ _ _ _ _ hdropped))

/-- Settles O22: the handler is `openGate`, with no condition. -/
theorem evWriteDoneOpensTheGate : Obligations.EvWriteDoneOpensTheGate :=
  fun s => exec_answers_of_reaction .evWriteDone s _ rfl

/-- Settles O23: in `CONNECTED` the watchdog is armed over what the family stores. -/
theorem evMessageRestartsTheWatchdog : Obligations.EvMessageRestartsTheWatchdog := by
  refine fun s rawBytes => ⟨fun hls => ?_, fun hls => exec_answers_of_reaction (.evMessage rawBytes) s _
    (congrArg some (onEvMessage_of_not_connected _ _ _ hls))⟩
  have hanswers := exec_answers_of_reaction (.evMessage rawBytes) s _
    (congrArg some (onEvMessage_of_connected _ _ _ hls))
  cases hfamily : Config.params.family
  case a => rwa [storeMessage_of_familyA _ _ _ hfamily, Session.armWd, wdLoad_of_familyA _ hfamily] at hanswers
  case b => rwa [storeMessage_of_familyB _ _ _ hfamily, Session.armWd, wdLoad_of_familyB _ hfamily] at hanswers

end Sys2Proof.Proofs
end

section
/-! SUPPORT and the statements of spec/30_encoding.md about words: what an accepted word has been checked for, one
equivalence per decoder (R80 to R86), how a word is put together again from the fields read from it, and the layout of
the encoder's words (R80, R81, R83, R84). -/

namespace Sys2Proof.Machine

/-! ## Accepting -/

theorem ite_error_eq_ok_iff {ε α : Type} {c : Prop} [Decidable c] {x : Except ε α} {e : ε} {a : α} :
    (if c then x else .error e) = .ok a ↔ c ∧ x = .ok a := by
  split <;> simp [*]

theorem map_eq_ok_iff {ε α β : Type} {f : α → β} {x : Except ε α} {b : β} :
    x.map f = .ok b ↔ ∃ a, x = .ok a ∧ f a = b := by
  cases x <;> simp [Except.map]

theorem CommandOp.ofCode_eq_some_iff (c : BitVec 4) (op : CommandOp) :
    CommandOp.ofCode c = some op ↔ c = op.code :=
  ⟨fun h => (CommandOp.code_of_ofCode c op h).symm, fun h => by rw [h, CommandOp.ofCode_code]⟩

/-- A command word is accepted by the operands of its own `op` (R81, R86). -/
theorem decodeCommand_ok_iff (cw : CommandWord) (beats : List Half) (i : Instr) :
    decodeCommand cw beats = .ok i ↔
      ∃ op, opOf cw = op.code ∧ cw.extractLsb' 40 4 = 0 ∧ decodeOperands op cw beats = .ok i := by
  simp only [← CommandOp.ofCode_eq_some_iff]
  unfold decodeCommand
  cases CommandOp.ofCode (opOf cw)
  case none => simp
  case some op => simp [ite_error_eq_ok_iff]

theorem formatN_ok_iff (i j : Instr) (cw : CommandWord) (beats : List Half) :
    formatN i cw beats = .ok j ↔ cw.extractLsb' 0 40 = 0 ∧ beats = [] ∧ i = j := by
  simp [formatN, ite_error_eq_ok_iff]

theorem plainEvent_ok_iff (i j : Instr) (ew : EventWord) (edata : List Byte) :
    plainEvent i ew edata = .ok j ↔ ew.extractLsb' 0 8 = 0 ∧ edata = [] ∧ i = j := by
  simp [plainEvent, ite_error_eq_ok_iff]

theorem plainRequest_ok_iff (i j : Instr) (zeroFields : Bool) (tdata : List Byte) :
    plainRequest i zeroFields tdata = .ok j ↔ zeroFields = true ∧ tdata = [] ∧ i = j := by
  simp [plainRequest, ite_error_eq_ok_iff]

/-- The three kinds of event word that are accepted (R83, R86). -/
theorem decodeEvent_ok_iff (ew : EventWord) (edata : List Byte) (i : Instr) :
    decodeEvent ew edata = .ok i ↔
      ew.extractLsb' 8 4 = 0 ∧
        (((ew.extractLsb' 12 4).toNat = 0x1 ∧ ew.extractLsb' 0 8 = 0 ∧ edata = [] ∧ Instr.evConnect = i) ∨
          ((ew.extractLsb' 12 4).toNat = 0x2 ∧ ew.extractLsb' 0 8 = 0 ∧ edata = [] ∧ Instr.evWriteDone = i) ∨
          ((ew.extractLsb' 12 4).toNat = 0x3 ∧ edata.length = (ew.extractLsb' 0 8).toNat ∧
            Instr.evMessage edata = i)) := by
  unfold decodeEvent
  split <;> simp_all [ite_error_eq_ok_iff, plainEvent_ok_iff]

/-! ## Words put together from their fields -/

theorem hi8_field (cw : CommandWord) : hi8 (cw.extractLsb' 0 16) = cw.extractLsb' 8 8 := by
  apply BitVec.eq_of_toNat_eq; rw [hi8_toNat, toNat_field, toNat_field]; omega

theorem lo8_field (cw : CommandWord) : lo8 (cw.extractLsb' 0 16) = cw.extractLsb' 0 8 := by
  apply BitVec.eq_of_toNat_eq; rw [lo8_toNat, toNat_field, toNat_field]; omega

theorem pairField_of_fields {n : Nat} (w : BitVec n) :
    pairField (w.extractLsb' 24 16) (w.extractLsb' 8 16) (w.extractLsb' 0 8) = w.extractLsb' 0 40 := by
  apply BitVec.eq_of_toNat_eq; rw [pairField_toNat]; simp only [toNat_field]; omega

theorem commandWord_of_fields (op : CommandOp) (cw : CommandWord) (hop : opOf cw = op.code)
    (hz : cw.extractLsb' 40 4 = 0) :
    commandWord op (cw.extractLsb' 32 8) (cw.extractLsb' 16 16) (cw.extractLsb' 8 8) (cw.extractLsb' 0 8) = cw := by
  rw [field_eq_zero] at hz
  apply BitVec.eq_of_toNat_eq
  rw [commandWord_toNat, ← hop, opOf]
  simp only [toNat_field]
  omega

theorem commandWord40_of_fields (op : CommandOp) (cw : CommandWord) (hop : opOf cw = op.code)
    (hz : cw.extractLsb' 40 4 = 0) : commandWord40 op (cw.extractLsb' 0 40) = cw := by
  rw [field_eq_zero] at hz
  apply BitVec.eq_of_toNat_eq
  rw [commandWord40_toNat, ← hop, opOf]
  simp only [toNat_field]
  omega

theorem eventWord_of_fields (code : BitVec 4) (ew : EventWord) (hcode : (ew.extractLsb' 12 4).toNat = code.toNat)
    (hz : ew.extractLsb' 8 4 = 0) : eventWord code (ew.extractLsb' 0 8) = ew := by
  rw [field_eq_zero] at hz
  apply BitVec.eq_of_toNat_eq
  rw [eventWord_toNat, ← hcode]
  simp only [toNat_field]
  omega

theorem requestWord_of_fields (code : BitVec 4) (framing : Bool) (tw : RequestWord)
    (hcode : (tw.extractLsb' 44 4).toNat = code.toNat) (hf : tw.toNat / 2 ^ 40 % 2 ^ 4 = framing.toNat) :
    requestWord code framing (tw.extractLsb' 0 40) = tw := by
  apply BitVec.eq_of_toNat_eq
  rw [requestWord_toNat, ← hcode, ← hf]
  simp only [toNat_field]
  omega

/-- Bit 40 and the three zero bits above it are `TW[43:40]` (R84). -/
theorem framing_field (tw : RequestWord) (hz : tw.extractLsb' 41 3 = 0) :
    tw.toNat / 2 ^ 40 % 2 ^ 4 = (tw.getLsbD 40).toNat := by
  rw [field_eq_zero] at hz
  rw [BitVec.getLsbD, Nat.testBit_eq_decide_div_mod_eq]
  rw [Bool.toNat, Bool.cond_decide]
  split <;> omega

/-- A length that equals a count field is that field again when it is written into a word. -/
theorem ofNat_eq_of_eq_toNat {n k : Nat} {x : BitVec n} (h : k = x.toNat) : BitVec.ofNat n k = x := by
  rw [h, BitVec.ofNat_toNat, BitVec.setWidth_eq]

/-! ## An accepted word is the encoding of what it decodes to -/

theorem map_tc16_map_ofTc16 (beats : List Half) : (beats.map ofTc16).map tc16 = beats := by
  simp [Function.comp_def]

theorem all_isI16_map_ofTc16 (beats : List Half) : (beats.map ofTc16).all isI16 = true := by
  simp [isI16_ofTc16]

theorem encodeWith_of_decodeOperands (T : CrcTable) (op : CommandOp) (cw : CommandWord) (beats : List Half) (i : Instr)
    (hop : opOf cw = op.code) (hz : cw.extractLsb' 40 4 = 0) (h : decodeOperands op cw beats = .ok i) :
    encodeWith T i = .command cw beats ∧ WellFormed i = true := by
  have hcw := commandWord_of_fields op cw hop hz
  have hcw40 := commandWord40_of_fields op cw hop hz
  cases op <;> simp only [decodeOperands, ite_error_eq_ok_iff, map_eq_ok_iff, byteStream_ok, valueStream_ok,
    formatN_ok_iff, Except.ok.injEq] at h
  case crcCompute =>
    obtain ⟨h39, bytes, ⟨hlength, rfl⟩, rfl⟩ := h
    rw [List.length_map] at hlength
    rw [h39] at hcw
    refine ⟨?_, decide_eq_true (hlength ▸ Nat.le_of_lt_succ (BitVec.isLt _))⟩
    rw [encodeWith, ofNat_eq_of_eq_toNat hlength, hi8_field, lo8_field, hcw]
  case encByteWrite =>
    obtain ⟨h15, rfl, rfl⟩ := h
    rw [h15] at hcw
    exact ⟨congrArg (PortWord.command · []) hcw, rfl⟩
  case encWordWrite =>
    obtain ⟨rfl, rfl⟩ := h
    rw [← hi8_field, ← lo8_field] at hcw
    exact ⟨congrArg (PortWord.command · []) hcw, rfl⟩
  case encRaw =>
    obtain ⟨h39, values, ⟨hlength, rfl⟩, rfl⟩ := h
    have hhigh : cw.extractLsb' 32 8 = 0 ∧ cw.extractLsb' 16 16 = 0 := by
      simp only [field_eq_zero] at h39 ⊢; omega
    rw [hhigh.1, hhigh.2] at hcw
    refine ⟨?_, rawValuesOk_iff.2 ⟨?_, all_isI16_map_ofTc16 beats⟩⟩
    · rw [encodeWith, List.length_map, ofNat_eq_of_eq_toNat hlength, hi8_field, lo8_field, hcw, map_tc16_map_ofTc16]
    · exact (List.length_map _).trans_le (hlength ▸ Nat.le_of_lt_succ (BitVec.isLt _))
  case connect =>
    obtain ⟨h39, rfl, rfl⟩ := h
    have hlow : (0#8) ++ cw.extractLsb' 0 32 = cw.extractLsb' 0 40 := by
      rw [field_eq_zero] at h39
      apply BitVec.eq_of_toNat_eq; rw [toNat_append_add]; simp only [toNat_field]; simp; omega
    rw [← hlow] at hcw40
    exact ⟨congrArg (PortWord.command · []) hcw40, rfl⟩
  case send =>
    obtain ⟨bytes, ⟨hlength, rfl⟩, rfl⟩ := h
    rw [List.length_map] at hlength
    refine ⟨?_, decide_eq_true (hlength ▸ Nat.le_of_lt_succ (BitVec.isLt _))⟩
    rw [encodeWith, ofNat_eq_of_eq_toNat hlength, pairField_of_fields, hcw40]
  all_goals
    obtain ⟨h40, rfl, rfl⟩ := h
    rw [h40] at hcw40
    exact ⟨congrArg (PortWord.command · []) hcw40, rfl⟩

theorem encodeWith_of_decodeEvent (T : CrcTable) (ew : EventWord) (edata : List Byte) (i : Instr)
    (h : decodeEvent ew edata = .ok i) : encodeWith T i = .event ew edata ∧ WellFormed i = true := by
  obtain ⟨hz, ⟨hcode, hn, rfl, rfl⟩ | ⟨hcode, hn, rfl, rfl⟩ | ⟨hcode, hlength, rfl⟩⟩ := (decodeEvent_ok_iff _ _ _).1 h
  · have hew := eventWord_of_fields 0x1 ew hcode hz
    rw [hn] at hew
    exact ⟨congrArg (PortWord.event · []) hew, rfl⟩
  · have hew := eventWord_of_fields 0x2 ew hcode hz
    rw [hn] at hew
    exact ⟨congrArg (PortWord.event · []) hew, rfl⟩
  · refine ⟨?_, decide_eq_true (hlength ▸ Nat.le_of_lt_succ (BitVec.isLt _))⟩
    rw [encodeWith, ofNat_eq_of_eq_toNat hlength, eventWord_of_fields 0x3 ew hcode hz]

/-- A request without `framing` whose fields are put together in `low` (R84). -/
theorem request_of_fields (code : BitVec 4) (low : BitVec 40) (tw : RequestWord) (tdata : List Byte)
    (hcode : (tw.extractLsb' 44 4).toNat = code.toNat) (hlow : tw.toNat % 2 ^ 44 = low.toNat) :
    PortWord.out (.request (requestWord code false low) tdata) = .out (.request tw tdata) := by
  congr
  apply BitVec.eq_of_toNat_eq
  rw [requestWord_toNat, ← hcode, toNat_field, ← hlow]
  simp
  omega

theorem encodeWith_of_decodeRequest (T : CrcTable) (tw : RequestWord) (tdata : List Byte) (i : Instr)
    (h : decodeRequest tw tdata = .ok i) : encodeWith T i = .out (.request tw tdata) ∧ WellFormed i = true := by
  unfold decodeRequest at h
  split at h <;> simp only [ite_error_eq_ok_iff, plainRequest_ok_iff, beq_iff_eq, Bool.and_eq_true, field_eq_zero,
    Except.ok.injEq, reduceCtorEq] at h
  next hcode =>
    obtain ⟨hz, rfl, rfl⟩ := h
    exact ⟨request_of_fields 0x1 _ tw _ hcode (by simpa using hz), rfl⟩
  next hcode =>
    obtain ⟨hz, rfl, rfl⟩ := h
    exact ⟨request_of_fields 0x2 _ tw _ hcode (by rw [toNat_append_add, toNat_field]; simp; omega), rfl⟩
  next hcode =>
    obtain ⟨hz, hlength, rfl⟩ := h
    refine ⟨?_, decide_eq_true (hlength ▸ Nat.le_of_lt_succ (BitVec.isLt _))⟩
    rw [encodeWith, ofNat_eq_of_eq_toNat hlength, pairField_of_fields,
      requestWord_of_fields 0x3 _ tw hcode (framing_field tw ((field_eq_zero _ _ _).2 hz))]
  next hcode =>
    obtain ⟨hz, rfl, rfl⟩ := h
    exact ⟨request_of_fields 0x4 _ tw _ hcode (by rw [pairField_toNat]; simp only [toNat_field]; simp; omega), rfl⟩
  next hcode =>
    obtain ⟨hz, rfl, rfl⟩ := h
    exact ⟨request_of_fields 0x5 _ tw _ hcode (by simpa using hz), rfl⟩
  next hcode =>
    obtain ⟨hz, rfl, rfl⟩ := h
    exact ⟨request_of_fields 0x6 _ tw _ hcode (by rw [toNat_append_add, toNat_field]; simp; omega), rfl⟩

theorem le16_half (hi lo : Byte) : le16 (half hi lo) = [lo, hi] := by
  rw [le16, lo8_half, hi8_half]

theorem encodeWith_of_decodeFrameA (T : CrcTable) (bytes : List Byte) (i : Instr)
    (h : decodeFrameA T bytes = .ok i) : encodeWith T i = .out (.frameA bytes) ∧ WellFormed i = true := by
  unfold decodeFrameA at h
  split at h <;> simp only [ite_error_eq_ok_iff, Except.ok.injEq, Config.header, Config.instWrite, List.cons.injEq,
    and_true, reduceCtorEq] at h
  · obtain ⟨⟨⟨rfl, rfl, rfl, rfl⟩, rfl, rfl, rfl⟩, hcrc, rfl⟩ := h
    refine ⟨?_, rfl⟩
    rw [encodeWith, byteWriteFrame, frameA, frameBody_byte, lo8_half, hi8_half, ← hcrc, le16_half]
    rfl
  · obtain ⟨⟨⟨rfl, rfl, rfl, rfl⟩, rfl, rfl, rfl⟩, hcrc, rfl⟩ := h
    refine ⟨?_, rfl⟩
    rw [encodeWith, wordWriteFrame, frameA, frameBody_word, lo8_half, hi8_half, lo8_half, hi8_half, ← hcrc, le16_half]
    rfl

theorem encodeWith_of_decodeFrameB (T : CrcTable) (bytes : List Byte) (i : Instr)
    (h : decodeFrameB bytes = .ok i) : encodeWith T i = .out (.frameB bytes) ∧ WellFormed i = true := by
  unfold decodeFrameB at h
  split at h <;> simp only [ite_error_eq_ok_iff, Except.ok.injEq, reduceCtorEq] at h
  next values hvalues =>
    obtain ⟨hlength, rfl⟩ := h
    obtain ⟨hbytes, hall⟩ := rawPayload_of_rawValues bytes values hvalues
    exact ⟨by rw [encodeWith, hbytes], rawValuesOk_iff.2 ⟨hlength, hall⟩⟩

theorem encodeWith_of_decodeWireInstruction (T : CrcTable) (value : Byte) (i : Instr)
    (h : decodeWireInstruction value = .ok i) :
    encodeWith T i = .out (.instruction value) ∧ WellFormed i = true := by
  simp only [decodeWireInstruction] at h
  split at h
  next hvalue => cases h; exact ⟨by rw [hvalue]; rfl, rfl⟩
  split at h
  next hvalue => cases h; exact ⟨by rw [hvalue]; rfl, rfl⟩
  split at h
  next hvalue => cases h; exact ⟨by rw [hvalue]; rfl, rfl⟩
  next => cases h

theorem encodeWith_of_decodeWith (T : CrcTable) (w : PortWord) (i : Instr) (h : decodeWith T w = .ok i) :
    encodeWith T i = w ∧ WellFormed i = true := by
  match w, h with
  | .command cw beats, h =>
    obtain ⟨op, hop, hz, h⟩ := (decodeCommand_ok_iff _ _ _).1 h
    exact encodeWith_of_decodeOperands T op cw beats i hop hz h
  | .event ew edata, h => exact encodeWith_of_decodeEvent T ew edata i h
  | .tick, h => cases h; exact ⟨rfl, rfl⟩
  | .out (.request tw tdata), h => exact encodeWith_of_decodeRequest T tw tdata i h
  | .out (.frameA bytes), h => exact encodeWith_of_decodeFrameA T bytes i h
  | .out (.frameB bytes), h => exact encodeWith_of_decodeFrameB T bytes i h
  | .out (.instruction value), h => exact encodeWith_of_decodeWireInstruction T value i h

/-! ## The layout of the encoder's words -/

theorem byteBeat_eq_ofNat (b : Byte) : byteBeat b = BitVec.ofNat 16 b.toNat := by
  apply BitVec.eq_of_toNat_eq
  rw [byteBeat, half_toNat, BitVec.toNat_ofNat]
  simp
  omega

theorem map_byteBeat (bytes : List Byte) : bytes.map byteBeat = bytes.map fun b => BitVec.ofNat 16 b.toNat :=
  List.map_congr_left fun b _ => byteBeat_eq_ofNat b

/-- A count of the formats C and V as the number in `CW[15:0]` (R80). -/
theorem count16_toNat (n : Nat) (h : n ≤ 65535) :
    (hi8 (BitVec.ofNat 16 n)).toNat * 2 ^ 8 + (lo8 (BitVec.ofNat 16 n)).toNat = n := by
  rw [hi8_toNat, lo8_toNat, BitVec.toNat_ofNat]; omega

theorem count8_toNat (n : Nat) (h : n ≤ 255) : (BitVec.ofNat 8 n).toNat = n := by
  rw [BitVec.toNat_ofNat]; omega

/-! ## Exactly the legal command words -/

theorem exists_byteStream_iff (n : Nat) (beats : List Half) :
    (∃ bytes, byteStream n beats = .ok bytes) ↔ beats.length = n ∧ ∀ b ∈ beats, b.toNat < 256 := by
  simp only [byteStream, ite_error_eq_ok_iff, List.all_eq_true, beq_iff_eq, hi8_eq_zero, exists_and_left]
  simp

/-- What R86 asks of the operand fields and the stream of a command, by the format of its `op` (R80). -/
def OperandsLegal (cw : CommandWord) (beats : List Half) : CommandOp → Prop
  | .crcCompute => cw.extractLsb' 32 8 = 0 ∧ beats.length = (cw.extractLsb' 0 16).toNat ∧ ∀ b ∈ beats, b.toNat < 256
  | .encByteWrite => cw.extractLsb' 8 8 = 0 ∧ beats = []
  | .encWordWrite => beats = []
  | .encRaw => cw.extractLsb' 16 24 = 0 ∧ beats.length = (cw.extractLsb' 0 16).toNat
  | .scan | .disconnect | .sreset | .isConnected => cw.extractLsb' 0 40 = 0 ∧ beats = []
  | .connect => cw.extractLsb' 32 8 = 0 ∧ beats = []
  | .send => beats.length = (cw.extractLsb' 0 8).toNat ∧ ∀ b ∈ beats, b.toNat < 256

theorem exists_map_eq_ok_iff {ε α β : Type} {f : α → β} {x : Except ε α} :
    (∃ b, x.map f = .ok b) ↔ ∃ a, x = .ok a := by
  cases x <;> simp [Except.map]

theorem exists_decodeOperands_iff (op : CommandOp) (cw : CommandWord) (beats : List Half) :
    (∃ i, decodeOperands op cw beats = .ok i) ↔ OperandsLegal cw beats op := by
  cases op
  case crcCompute =>
    simp only [decodeOperands, OperandsLegal, ite_error_eq_ok_iff, exists_and_left, exists_map_eq_ok_iff,
      exists_byteStream_iff]
  case send => simp only [decodeOperands, OperandsLegal, exists_map_eq_ok_iff, exists_byteStream_iff]
  case encRaw =>
    simp only [decodeOperands, OperandsLegal, ite_error_eq_ok_iff, exists_and_left, exists_map_eq_ok_iff]
    simp [valueStream_ok]
  all_goals simp [decodeOperands, OperandsLegal, ite_error_eq_ok_iff, formatN_ok_iff]

theorem CommandOp.exists_iff (P : CommandOp → Prop) :
    (∃ op, P op) ↔ P .crcCompute ∨ P .encByteWrite ∨ P .encWordWrite ∨ P .encRaw ∨
      (P .scan ∨ P .disconnect ∨ P .sreset ∨ P .isConnected) ∨ P .connect ∨ P .send := by
  constructor
  · rintro ⟨op, h⟩
    cases op <;> simp [h]
  · rintro (h | h | h | h | (h | h | h | h) | h | h) <;> exact ⟨_, h⟩

theorem opOf_eq_code_iff (cw : CommandWord) (op : CommandOp) :
    opOf cw = op.code ↔ cw.toNat / 2 ^ 44 % 2 ^ 4 = op.code.toNat := by
  rw [← BitVec.toNat_inj, opOf, toNat_field]

/-- The command port accepts a word exactly when its `op` is one of the map and its operands are legal (R86). -/
theorem exists_decodeCommand_iff (cw : CommandWord) (beats : List Half) :
    (∃ i, decodeCommand cw beats = .ok i) ↔
      cw.toNat / 2 ^ 40 % 2 ^ 4 = 0 ∧
        ∃ op : CommandOp, cw.toNat / 2 ^ 44 % 2 ^ 4 = op.code.toNat ∧ OperandsLegal cw beats op := by
  simp only [decodeCommand_ok_iff, opOf_eq_code_iff, field_eq_zero, ← exists_decodeOperands_iff]
  constructor
  · rintro ⟨i, op, hop, hz, h⟩
    exact ⟨hz, op, hop, i, h⟩
  · rintro ⟨hz, op, hop, i, h⟩
    exact ⟨i, op, hop, hz, h⟩

/-! ## What the encoders return -/

theorem rawPayload_cons (v : Int) (vs : List Int) :
    rawPayload (v :: vs) = hi8 (tc16 v) :: lo8 (tc16 v) :: rawPayload vs := rfl

@[simp] theorem rawPayload_length (values : List Int) : (rawPayload values).length = 2 * values.length := by
  induction values with
  | nil => rfl
  | cons v vs ih => rw [rawPayload_cons]; simp only [List.length_cons, ih]; omega

/-- Value `k` lies at the offsets `2k` and `2k + 1`, high byte first (R117). -/
theorem rawPayload_getElem? (values : List Int) (k : Nat) (v : Int) (h : values[k]? = some v) :
    (rawPayload values)[2 * k]? = some (hi8 (tc16 v)) ∧ (rawPayload values)[2 * k + 1]? = some (lo8 (tc16 v)) := by
  induction values generalizing k with
  | nil => simp at h
  | cons w ws ih =>
    rw [rawPayload_cons]
    cases k with
    | zero => cases h; exact ⟨rfl, rfl⟩
    | succ k => exact ih k h

/-- Frames with payloads of one length are equal only if their bodies are: the CRC takes the last two bytes. -/
theorem frameBody_eq_of_frameA_eq (T : CrcTable) {d d' : Byte} {a a' : Half} {payload payload' : List Byte}
    (hlength : payload.length = payload'.length) (h : frameA T d a payload = frameA T d' a' payload') :
    frameBody d a payload = frameBody d' a' payload' :=
  List.append_inj_left h (by simp only [frameBody_length, hlength])

theorem half_eq_of_bytes_eq {v w : Half} (hlo : lo8 v = lo8 w) (hhi : hi8 v = hi8 w) : v = w := by
  rw [← half_hi8_lo8 v, hlo, hhi, half_hi8_lo8]

theorem byteWriteFrame_inj (T : CrcTable) (d d' : Byte) (a a' : Half) (v v' : Byte)
    (h : byteWriteFrame T d a v = byteWriteFrame T d' a' v') : d = d' ∧ a = a' ∧ v = v' := by
  have hbody := frameBody_eq_of_frameA_eq T (payload := [v]) (payload' := [v']) rfl h
  simp only [frameBody_byte, List.cons.injEq, true_and, and_true] at hbody
  obtain ⟨hd, hlo, hhi, hv⟩ := hbody
  exact ⟨hd, half_eq_of_bytes_eq hlo hhi, hv⟩

theorem wordWriteFrame_inj (T : CrcTable) (d d' : Byte) (a a' v v' : Half)
    (h : wordWriteFrame T d a v = wordWriteFrame T d' a' v') : d = d' ∧ a = a' ∧ v = v' := by
  have hbody := frameBody_eq_of_frameA_eq T (payload := le16 v) (payload' := le16 v') rfl h
  simp only [frameBody_word, List.cons.injEq, true_and, and_true] at hbody
  obtain ⟨hd, halo, hahi, hvlo, hvhi⟩ := hbody
  exact ⟨hd, half_eq_of_bytes_eq halo hahi, half_eq_of_bytes_eq hvlo hvhi⟩

/-- A payload of `i16` values can be read back, so it determines them. -/
theorem rawPayload_inj (xs ys : List Int) (hx : xs.all isI16 = true) (hy : ys.all isI16 = true)
    (h : rawPayload xs = rawPayload ys) : xs = ys := by
  have hread := rawValues_rawPayload xs hx
  rw [h, rawValues_rawPayload ys hy] at hread
  exact (Option.some.inj hread).symm

end Sys2Proof.Machine

namespace Sys2Proof.Proofs
open Sys2Proof.Machine

/-- Settles O1: one lemma per row of the table. -/
theorem decodeOfEncodeGivesBack : Obligations.DecodeOfEncodeGivesBack := by
  intro T i h
  cases i
  case crcCompute seed bytes => exact Laws.RoundTrip.crcCompute seed bytes T h
  case encByteWrite d a v => exact Laws.RoundTrip.encByteWrite d a v T h
  case encWordWrite d a v => exact Laws.RoundTrip.encWordWrite d a v T h
  case encRaw values => exact Laws.RoundTrip.encRaw values T h
  case scan => exact Laws.RoundTrip.scan T h
  case connect id => exact Laws.RoundTrip.connect id T h
  case disconnect => exact Laws.RoundTrip.disconnect T h
  case sreset => exact Laws.RoundTrip.sreset T h
  case isConnected => exact Laws.RoundTrip.isConnected T h
  case send service characteristic payload => exact Laws.RoundTrip.send service characteristic payload T h
  case evConnect => exact Laws.RoundTrip.evConnect T h
  case evWriteDone => exact Laws.RoundTrip.evWriteDone T h
  case evMessage rawBytes => exact Laws.RoundTrip.evMessage rawBytes T h
  case evTick => exact Laws.RoundTrip.evTick T h
  case tDiscover => exact Laws.RoundTrip.tDiscover T h
  case tConnect id => exact Laws.RoundTrip.tConnect id T h
  case tWrite framing service characteristic payload =>
    exact Laws.RoundTrip.tWrite framing service characteristic payload T h
  case tSubscribe service characteristic => exact Laws.RoundTrip.tSubscribe service characteristic T h
  case tTeardown => exact Laws.RoundTrip.tTeardown T h
  case tLinkError reason => exact Laws.RoundTrip.tLinkError reason T h
  case frameAByte d a v => exact Laws.RoundTrip.frameAByte d a v T h
  case frameAWord d a v => exact Laws.RoundTrip.frameAWord d a v T h
  case frameBRaw values => exact Laws.RoundTrip.frameBRaw values T h
  case instNone => exact Laws.RoundTrip.instNone T h
  case instRead => exact Laws.RoundTrip.instRead T h
  case instWrite => exact Laws.RoundTrip.instWrite T h

/-- Settles O2: for each port, the fields an accepted word has been checked for put that word together again. -/
theorem encodeOfDecodeGivesBack : Obligations.EncodeOfDecodeGivesBack := encodeWith_of_decodeWith

/-- Settles O4: each command's word is a sum of fields (`commandWord_toNat`, `commandWord40_toNat`), and its length is
the count written into them. -/
theorem commandWordLayout : Obligations.CommandWordLayout := by
  refine ⟨fun seed bytes h => ⟨_, congrArg _ (map_byteBeat bytes), ?_⟩, fun d a v => ⟨_, rfl, ?_⟩,
    fun d a v => ⟨_, rfl, ?_⟩, fun values h => ⟨_, _, rfl, ?_, ?_⟩, ⟨_, rfl, rfl⟩, fun id => ⟨_, rfl, ?_⟩,
    ⟨_, rfl, rfl⟩, ⟨_, rfl, rfl⟩, ⟨_, rfl, rfl⟩,
    fun service characteristic payload h => ⟨_, congrArg _ (map_byteBeat payload), ?_⟩⟩
  · have hcount := count16_toNat bytes.length h
    rw [commandWord_toNat, CommandOp.code]
    simp
    omega
  · rw [commandWord_toNat, CommandOp.code]
    simp
  · rw [commandWord_toNat, CommandOp.code, hi8_toNat, lo8_toNat]
    simp
    omega
  · have hcount := count16_toNat values.length h
    rw [commandWord_toNat, CommandOp.code]
    simp
    omega
  · simp [tc16_toNat]
  · rw [commandWord40_toNat, toNat_append_add]
    simp [CommandOp.code]
  · rw [commandWord40_toNat, pairField_toNat, count8_toNat _ h, CommandOp.code]
    simp
    omega

/-- Settles O5: as for the commands, with `eventWord_toNat` and `requestWord_toNat`. -/
theorem eventAndRequestWordLayout : Obligations.EventAndRequestWordLayout := by
  refine ⟨rfl, rfl, rfl, fun rawBytes h => ⟨_, rfl, ?_⟩, ⟨_, rfl, rfl⟩, fun id => ⟨_, rfl, ?_⟩,
    fun framing service characteristic payload h => ⟨_, rfl, ?_⟩, fun service characteristic => ⟨_, rfl, ?_⟩,
    ⟨_, rfl, rfl⟩, fun reason => ⟨_, rfl, ?_⟩⟩
  · rw [eventWord_toNat, count8_toNat _ h]; rfl
  · rw [requestWord_toNat, toNat_append_add]; simp
  · rw [requestWord_toNat, pairField_toNat, count8_toNat _ h]
    simp
    omega
  · rw [requestWord_toNat, pairField_toNat]; simp; omega
  · rw [requestWord_toNat, toNat_append_add]; simp

/-- Settles O6: the alternatives are those of the ten commands, each with its own operand fields. -/
theorem legalCommandWords : Obligations.LegalCommandWords := by
  intro cw beats w field bytes
  rw [exists_decodeCommand_iff, CommandOp.exists_iff]
  simp only [OperandsLegal, CommandOp.code, field_eq_zero, toNat_field, or_and_right, field, bytes, w]
  rfl

/-- Settles O7: each field of the event word is a quotient and a remainder of its number. -/
theorem legalEventWords : Obligations.LegalEventWords := by
  intro ew bytes w
  have hcode : (ew.extractLsb' 12 4).toNat = w / 2 ^ 12 := by rw [toNat_field]; omega
  have hcount : ew.toNat / 2 ^ 0 % 2 ^ 8 = w % 2 ^ 8 := by rw [Nat.pow_zero, Nat.div_one]
  simp only [decodeEvent_ok_iff, field_eq_zero, hcode, toNat_field, hcount]
  constructor
  · rintro ⟨i, hz, ⟨h, hn, hb, -⟩ | ⟨h, hn, hb, -⟩ | ⟨h, hl, -⟩⟩
    · exact ⟨hz, .inl ⟨.inl h, hn, hb⟩⟩
    · exact ⟨hz, .inl ⟨.inr h, hn, hb⟩⟩
    · exact ⟨hz, .inr ⟨h, hl⟩⟩
  · rintro ⟨hz, ⟨h | h, hn, hb⟩ | ⟨h, hl⟩⟩
    · exact ⟨_, hz, .inl ⟨h, hn, hb, rfl⟩⟩
    · exact ⟨_, hz, .inr (.inl ⟨h, hn, hb, rfl⟩)⟩
    · exact ⟨_, hz, .inr (.inr ⟨h, hl, rfl⟩)⟩

/-- Settles O3: the decoders compute on the words written out. -/
theorem vectorWordsDecode : Obligations.VectorWordsDecode := ⟨rfl, rfl, rfl, rfl, rfl, rfl, rfl, rfl⟩

/-- Settles O13: the two bytes of a value are the quotient and the remainder by 256 of its residue modulo 65536. -/
theorem rawPayloadBytes : Obligations.RawPayloadBytes := by
  refine fun s values => ⟨_, exec_encRaw_answers s values, rawPayload_length values, fun k v hv => ?_⟩
  obtain ⟨hhi, hlo⟩ := rawPayload_getElem? values k v hv
  have hresidue := tc16_toNat v
  rw [hhi, hlo, Option.map_some, Option.map_some, hi8_toNat, lo8_toNat]
  constructor <;> congr 1 <;> omega

/-- Settles O15: equal frames have equal bodies, and a raw payload can be read back. -/
theorem encodersLoseNothing : Obligations.EncodersLoseNothing := by
  refine ⟨fun T d a v d' a' v' => byteWriteFrame_inj T d d' a a' v v',
    fun T d a v d' a' v' => wordWriteFrame_inj T d d' a a' v v', fun xs ys hrange => rawPayload_inj xs ys ?_ ?_⟩
  · exact List.all_eq_true.2 fun v hv => (isI16_iff v).2 (hrange v (List.mem_append_left _ hv))
  · exact List.all_eq_true.2 fun v hv => (isI16_iff v).2 (hrange v (List.mem_append_right _ hv))

/-- Settles O9: the fold over two pieces is the fold of the second from the value of the first. -/
theorem crcSplitsOverPieces : Obligations.CrcSplitsOverPieces := by
  intro s t u seed a b
  refine ⟨_, _, exec_crcCompute_answers s seed a, exec_crcCompute_answers t _ b, ?_⟩
  have hsplit : computeCrc Config.params.crcTable seed (a ++ b) =
      computeCrc Config.params.crcTable (computeCrc Config.params.crcTable seed a) b := List.foldl_append
  rw [← hsplit]
  exact exec_crcCompute_answers u seed (a ++ b)

end Sys2Proof.Proofs
end

section
/-! SUPPORT and the statements about the rows of the output layers: what leaves when a request, a frame or a wire value
is run by itself (R71, R72, R74, R78, R84). -/

namespace Sys2Proof.Machine

/-- The instruction byte stands at offset 7 of every frame (R70, R74). -/
theorem frameA_instruction (T : CrcTable) (deviceId : Byte) (address : Half) (payload : List Byte) :
    (frameA T deviceId address payload)[7]? = some Config.instWrite := rfl

end Sys2Proof.Machine

namespace Sys2Proof.Proofs
open Sys2Proof.Machine

/-- Settles O25: each row's meaning is `emit`, and its request's word is the row's by definition. -/
theorem requestRowsEmit : Obligations.RequestRowsEmit := fun s =>
  ⟨⟨answers_emit s _, rfl⟩, fun _ => ⟨answers_emit s _, rfl⟩, fun _ _ _ _ => ⟨answers_emit s _, rfl⟩,
    fun _ _ => ⟨answers_emit s _, rfl⟩, ⟨answers_emit s _, rfl⟩, fun _ => ⟨answers_emit s _, rfl⟩⟩

/-- Settles O26: a frame row returns the frame of its encoder command. -/
theorem wireRowsGiveTheirBytes : Obligations.WireRowsGiveTheirBytes := fun s d a v8 v16 values =>
  ⟨⟨_, rfl, answers_return s _, exec_encByteWrite_answers s d a v8, frameA_length _ d a [v8],
      frameA_instruction _ d a [v8]⟩,
    ⟨_, rfl, answers_return s _, exec_encWordWrite_answers s d a v16, frameA_length _ d a (le16 v16),
      frameA_instruction _ d a (le16 v16)⟩,
    ⟨_, rfl, answers_return s _, exec_encRaw_answers s values⟩, answers_return s _⟩

/-- Settles O27: both meanings refuse without looking at the state. -/
theorem unusedWireInstructionsAreRefused : Obligations.UnusedWireInstructionsAreRefused := fun _ => ⟨rfl, rfl⟩

end Sys2Proof.Proofs
end

section
/-! SUPPORT and the statements about steps: what `RST` leaves at the ports (R200), which pending input is served (R63),
the step of each source (R61, R82, R86), and that legal words never stop the block (R180, R219). -/

namespace Sys2Proof.Machine

/-! ## The hardware reset -/

theorem State.abandonCommand_of_nil (s : State) (h : s.cwords = []) : s.abandonCommand = s := by
  rw [State.abandonCommand, h]

/-- The first command is abandoned with what was received of its stream when that stream is short (R200). -/
theorem State.abandonCommand_of_short (s : State) (cw : CommandWord) (rest : List CommandWord)
    (hw : s.cwords = cw :: rest) (hshort : s.cdata.length < announcedBeats cw) :
    s.abandonCommand = { s with cwords := rest, cdata := [] } := by
  simp only [State.abandonCommand, hw, hshort, if_true]

theorem State.abandonCommand_of_whole (s : State) (cw : CommandWord) (rest : List CommandWord)
    (hw : s.cwords = cw :: rest) (hwhole : announcedBeats cw ≤ s.cdata.length) : s.abandonCommand = s := by
  simp only [State.abandonCommand, hw, Nat.not_lt.2 hwhole, if_false]

theorem State.abandonEvent_of_nil (s : State) (h : s.ewords = []) : s.abandonEvent = s := by
  rw [State.abandonEvent, h]

/-- The first event likewise. -/
theorem State.abandonEvent_of_short (s : State) (ew : EventWord) (rest : List EventWord)
    (hw : s.ewords = ew :: rest) (hshort : s.edata.length < announcedBytes ew) :
    s.abandonEvent = { s with ewords := rest, edata := [] } := by
  simp only [State.abandonEvent, hw, hshort, if_true]

theorem State.abandonEvent_of_whole (s : State) (ew : EventWord) (rest : List EventWord)
    (hw : s.ewords = ew :: rest) (hwhole : announcedBytes ew ≤ s.edata.length) : s.abandonEvent = s := by
  simp only [State.abandonEvent, hw, Nat.not_lt.2 hwhole, if_false]

theorem State.abandonCommand_eq (s : State) :
    s.abandonCommand = { s with cwords := s.abandonCommand.cwords, cdata := s.abandonCommand.cdata } := by
  unfold State.abandonCommand
  (repeat' split) <;> rfl

/-- Abandoning an event looks at the event port alone. -/
theorem State.abandonEvent_of_command (s : State) (cwords : List CommandWord) (cdata : List Half) :
    ({ s with cwords := cwords, cdata := cdata } : State).abandonEvent =
      { s with cwords := cwords, cdata := cdata, ewords := s.abandonEvent.ewords, edata := s.abandonEvent.edata } := by
  cases hw : s.ewords
  case nil => simp only [State.abandonEvent, hw]
  case cons ew rest =>
    by_cases hshort : s.edata.length < announcedBytes ew
    · simp only [State.abandonEvent, hw, hshort, if_true]
    · simp only [State.abandonEvent, hw, hshort, if_false]

/-- What an `RST` leaves: the two ports after the abandoned words, and every field that is not the block's own. -/
theorem State.hardwareReset_eq (s : State) :
    s.hardwareReset = { s with
      session := Session.reset, rst := false, outbox := [],
      cwords := s.abandonCommand.cwords, cdata := s.abandonCommand.cdata,
      ewords := s.abandonEvent.ewords, edata := s.abandonEvent.edata } := by
  rw [State.hardwareReset, s.abandonCommand_eq, State.abandonEvent_of_command]

/-! ## The source served -/

theorem pick_of_rst (s : State) (h : s.rst = true) : pick s = some .resetPin := by simp [pick, h]

theorem arbitrate_eq_none_iff (turn : Nat) (sources : List Source) : arbitrate turn sources = none ↔ sources = [] := by
  refine ⟨fun h => ?_, fun h => by rw [h]; rfl⟩
  by_contra hne
  obtain ⟨x, hx⟩ := arbitrate_isSome turn sources hne
  rw [h] at hx
  cases hx

theorem hostReady_eq_false_iff (s : State) :
    hostReady s = false ↔ ∀ cw rest, s.cwords = cw :: rest → s.cdata.length < announcedBeats cw := by
  rw [← Bool.not_eq_true, hostReady_iff]
  simp

theorem transportReady_eq_false_iff (s : State) :
    transportReady s = false ↔ ∀ ew rest, s.ewords = ew :: rest → s.edata.length < announcedBytes ew := by
  rw [← Bool.not_eq_true, transportReady_iff]
  simp

theorem readySources_eq_nil_iff (s : State) :
    readySources s = [] ↔ hostReady s = false ∧ transportReady s = false ∧ s.ticks = 0 ∧ s.levels = [] := by
  simp [readySources]

section
variable (s : State) (hr : s.rst = false) (ho : s.outbox = [])
include hr ho

/-- With `rst` low and no word in the outbox, the source served is one whose input is pending (R63). -/
theorem ready_of_pick (x : Source) (h : pick s = some x) :
    (x = .host ∧ ∃ cw rest, s.cwords = cw :: rest ∧ announcedBeats cw ≤ s.cdata.length) ∨
      (x = .transport ∧ ∃ ew rest, s.ewords = ew :: rest ∧ announcedBytes ew ≤ s.edata.length) ∨
      (x = .timeBase ∧ s.ticks ≠ 0) ∨ (x = .level ∧ s.levels ≠ []) := by
  rw [pick_of_idle_pins s hr ho] at h
  rw [← hostReady_iff, ← transportReady_iff]
  exact (mem_readySources s x).1 (mem_of_arbitrate _ _ x h)

/-- No source is served exactly when nothing is pending. -/
theorem pick_eq_none_iff :
    pick s = none ↔
      (∀ cw rest, s.cwords = cw :: rest → s.cdata.length < announcedBeats cw) ∧
        (∀ ew rest, s.ewords = ew :: rest → s.edata.length < announcedBytes ew) ∧ s.ticks = 0 ∧ s.levels = [] := by
  rw [pick_of_idle_pins s hr ho, arbitrate_eq_none_iff, readySources_eq_nil_iff, hostReady_eq_false_iff,
    transportReady_eq_false_iff]

end

/-! ## The step of each source -/

theorem runWord_of_decode (w : PortWord) (s : State) (i : Instr) (h : decode w = .ok i) : runWord w s = exec i s := by
  rw [runWord, h]

theorem runWord_of_illegal (w : PortWord) (s : State) (h : ¬∃ i, decode w = .ok i) :
    ∃ why, runWord w s = .refused (.illegalWord why) := by
  unfold runWord
  split
  next i hi => exact absurd ⟨i, hi⟩ h
  next why _ => exact ⟨why, rfl⟩

theorem step_of_pick_none (s : State) (h : pick s = none) : step s = .next s := by
  rw [step, h]

theorem step_of_rst (s : State) (h : s.rst = true) : step s = .next s.hardwareReset := by
  rw [step, pick_of_rst s h]

theorem step_of_level (s : State) (h : pick s = some .level) : step s = .next s.driveLevel := by
  rw [step, h]

theorem step_of_host (s : State) (cw : CommandWord) (rest : List CommandWord) (h : pick s = some .host)
    (hw : s.cwords = cw :: rest) :
    step s = runWord (.command cw (s.cdata.take (announcedBeats cw)))
      { s with cwords := rest, cdata := s.cdata.drop (announcedBeats cw), turn := s.turn + 1 } := by
  simp [step, h, fetch, hw]

theorem step_of_transport (s : State) (ew : EventWord) (rest : List EventWord) (h : pick s = some .transport)
    (hw : s.ewords = ew :: rest) :
    step s = runWord (.event ew (s.edata.take (announcedBytes ew)))
      { s with ewords := rest, edata := s.edata.drop (announcedBytes ew), turn := s.turn + 1 } := by
  simp [step, h, fetch, hw]

theorem step_of_timeBase (s : State) (h : pick s = some .timeBase) (ht : s.ticks ≠ 0) :
    step s = exec .evTick { s with ticks := s.ticks - 1, turn := s.turn + 1 } := by
  simp [step, h, fetch, ht, runWord, decode, decodeWith]

theorem step_of_outbox (s : State) (w : OutWord) (rest : List OutWord) (h : pick s = some .outbox)
    (hw : s.outbox = w :: rest) : step s = runWord (.out w) { s with outbox := rest } := by
  simp [step, h, fetch, hw]

theorem State.driveLevel_of_cons (s : State) (level : Bool) (rest : List Bool) (h : s.levels = level :: rest) :
    s.driveLevel = { s with tConnected := level, levels := rest, turn := s.turn + 1 } := by
  rw [State.driveLevel, h]

/-! ## A word placed where the next step takes it -/

/-- Whatever the decoder reads from a port word, the step after that word is placed runs. -/
theorem step_place (s : State) (w : PortWord) (i : Instr) (h : decode w = .ok i) :
    ∃ t : State, step (s.place w) = exec i t ∧ t.session = s.session ∧ t.requests = s.requests ∧
      t.results = s.results ∧ t.tConnected = s.tConnected := by
  match w, h with
  | .command cw cdata, h =>
    have hlength : announcedBeats cw = cdata.length := announcedBeats_of_decode cw cdata i h
    have hready : hostReady (s.place (.command cw cdata)) = true :=
      (hostReady_iff _).2 ⟨cw, s.cwords, rfl, by simp [State.place, hlength]⟩
    have hpick : pick (s.place (.command cw cdata)) = some .host := by
      rw [pick_of_idle_pins _ rfl rfl, readySources, hready]; rfl
    have htake : (s.place (.command cw cdata)).cdata.take (announcedBeats cw) = cdata := by
      simp [State.place, hlength]
    rw [step_of_host _ cw s.cwords hpick rfl, htake, runWord_of_decode _ _ i h]
    exact ⟨_, rfl, rfl, rfl, rfl, rfl⟩
  | .event ew edata, h =>
    have hlength : announcedBytes ew = edata.length := announcedBytes_of_decode ew edata i h
    have hready : transportReady (s.place (.event ew edata)) = true :=
      (transportReady_iff _).2 ⟨ew, s.ewords, rfl, by simp [State.place, hlength]⟩
    have hpick : pick (s.place (.event ew edata)) = some .transport := by
      rw [pick_of_idle_pins _ rfl rfl, readySources, hready]; rfl
    have htake : (s.place (.event ew edata)).edata.take (announcedBytes ew) = edata := by
      simp [State.place, hlength]
    rw [step_of_transport _ ew s.ewords hpick rfl, htake, runWord_of_decode _ _ i h]
    exact ⟨_, rfl, rfl, rfl, rfl, rfl⟩
  | .tick, h =>
    cases h
    rw [step_of_timeBase (s.place .tick) rfl (Nat.succ_ne_zero _)]
    exact ⟨_, rfl, rfl, rfl, rfl, rfl⟩
  | .out w, h =>
    rw [step_of_outbox (s.place (.out w)) w s.outbox rfl rfl, runWord_of_decode _ _ i h]
    exact ⟨_, rfl, rfl, rfl, rfl, rfl⟩

/-! ## Legal words -/

theorem commandsLegal_of_short {cw : CommandWord} {rest : List CommandWord} {beats : List Half}
    (hshort : beats.length < announcedBeats cw) (h : CommandsLegal (cw :: rest) beats) : CommandsLegal rest [] := by
  rwa [CommandsLegal, if_pos hshort] at h

theorem commandsLegal_of_whole {cw : CommandWord} {rest : List CommandWord} {beats : List Half}
    (hwhole : announcedBeats cw ≤ beats.length) (h : CommandsLegal (cw :: rest) beats) :
    (∃ i, decode (.command cw (beats.take (announcedBeats cw))) = .ok i) ∧
      CommandsLegal rest (beats.drop (announcedBeats cw)) := by
  rwa [CommandsLegal, if_neg (Nat.not_lt.2 hwhole)] at h

theorem eventsLegal_of_short {ew : EventWord} {rest : List EventWord} {bytes : List Byte}
    (hshort : bytes.length < announcedBytes ew) (h : EventsLegal (ew :: rest) bytes) : EventsLegal rest [] := by
  rwa [EventsLegal, if_pos hshort] at h

theorem eventsLegal_of_whole {ew : EventWord} {rest : List EventWord} {bytes : List Byte}
    (hwhole : announcedBytes ew ≤ bytes.length) (h : EventsLegal (ew :: rest) bytes) :
    (∃ i, decode (.event ew (bytes.take (announcedBytes ew))) = .ok i) ∧
      EventsLegal rest (bytes.drop (announcedBytes ew)) := by
  rwa [EventsLegal, if_neg (Nat.not_lt.2 hwhole)] at h

theorem State.hardwareReset_portsLegal (s : State) (h : s.PortsLegal) : s.hardwareReset.PortsLegal := by
  obtain ⟨hc, he, -⟩ := h
  rw [s.hardwareReset_eq]
  refine ⟨?_, ?_, rfl⟩
  · cases hw : s.cwords
    case nil => rwa [s.abandonCommand_of_nil hw]
    case cons cw rest =>
      by_cases hshort : s.cdata.length < announcedBeats cw
      · rw [s.abandonCommand_of_short cw rest hw hshort]
        exact commandsLegal_of_short hshort (hw ▸ hc)
      · rwa [s.abandonCommand_of_whole cw rest hw (Nat.not_lt.1 hshort)]
  · cases hw : s.ewords
    case nil => rwa [s.abandonEvent_of_nil hw]
    case cons ew rest =>
      by_cases hshort : s.edata.length < announcedBytes ew
      · rw [s.abandonEvent_of_short ew rest hw hshort]
        exact eventsLegal_of_short hshort (hw ▸ he)
      · rwa [s.abandonEvent_of_whole ew rest hw (Nat.not_lt.1 hshort)]

/-- An input is handled to completion and changes nothing at the ports, so the words left there stay legal. -/
theorem exec_input_portsLegal (i : Instr) (s : State) (hi : i.isInput = true) (h : s.PortsLegal) :
    ∃ t, exec i s = .next t ∧ t.PortsLegal := by
  obtain ⟨r, hr⟩ := reaction_isSome Config.params s.tConnected s.session i hi
  exact ⟨_, exec_of_reaction i s r hr, h⟩

theorem decodeEvent_isInput (ew : EventWord) (edata : List Byte) (i : Instr) (h : decodeEvent ew edata = .ok i) :
    i.isInput = true := by
  obtain rfl | rfl | ⟨rfl, -⟩ := decodeEvent_cases ew edata i h <;> rfl

/-- R180 and R219 under the neighbours' duties, by the source served. -/
theorem step_portsLegal (s : State) (h : s.PortsLegal) : ∃ t, step s = .next t ∧ t.PortsLegal := by
  cases hr : s.rst
  case true => exact ⟨_, step_of_rst s hr, s.hardwareReset_portsLegal h⟩
  case false =>
    obtain ⟨hc, he, ho⟩ := h
    cases hp : pick s
    case none => exact ⟨s, step_of_pick_none s hp, hc, he, ho⟩
    case some x =>
      obtain ⟨rfl, cw, rest, hw, hwhole⟩ | ⟨rfl, ew, rest, hw, hwhole⟩ | ⟨rfl, ht⟩ | ⟨rfl, hl⟩ :=
        ready_of_pick s hr ho x hp
      · rw [hw] at hc
        obtain ⟨⟨i, hi⟩, hc⟩ := commandsLegal_of_whole hwhole hc
        rw [step_of_host s cw rest hp hw, runWord_of_decode _ _ i hi]
        exact exec_input_portsLegal i _ (decodeCommand_isInput _ _ i hi) ⟨hc, he, ho⟩
      · rw [hw] at he
        obtain ⟨⟨i, hi⟩, he⟩ := eventsLegal_of_whole hwhole he
        rw [step_of_transport s ew rest hp hw, runWord_of_decode _ _ i hi]
        exact exec_input_portsLegal i _ (decodeEvent_isInput _ _ i hi) ⟨hc, he, ho⟩
      · rw [step_of_timeBase s hp ht]
        exact exec_input_portsLegal .evTick _ rfl ⟨hc, he, ho⟩
      · obtain ⟨level, rest, hl⟩ := List.exists_cons_of_ne_nil hl
        exact ⟨_, step_of_level s hp, by rw [s.driveLevel_of_cons level rest hl]; exact ⟨hc, he, ho⟩⟩

end Sys2Proof.Machine

namespace Sys2Proof.Proofs
open Sys2Proof.Machine

/-- Settles O36: by the source served; a legal word is an input, and every input is handled to completion. -/
theorem legalPortsNeverStopTheBlock : Obligations.LegalPortsNeverStopTheBlock := step_portsLegal

/-- Settles O33: the source served is one of the pending ones, and there is none exactly when none is pending. -/
theorem onlyPendingInputsAreServed : Obligations.OnlyPendingInputsAreServed := by
  intro s hr ho
  have hready := ready_of_pick s hr ho
  refine ⟨fun h => ?_, fun h => ?_, fun h => ?_, fun h => ?_, fun h => ?_, fun h => ?_, pick_eq_none_iff s hr ho,
    step_of_pick_none s⟩
  all_goals simpa using hready _ h

/-- Settles O35: a table word is placed as the port word it is read as, first at its own port. -/
theorem placedTableWordRunsNext : Obligations.PlacedTableWordRunsNext := by
  intro s nbits w i h
  have hdecode : decode (tableWord nbits w) = .ok i := by
    unfold decodeTableWord at h
    split at h <;> simp_all
  exact step_place s _ i hdecode

/-- Settles O29: `RST` goes first, and abandons the first word at a port when its stream is short. -/
theorem rstReconstructsTheSession : Obligations.RstReconstructsTheSession := by
  intro s hr
  refine ⟨_, step_of_rst s hr, ?_⟩
  rw [s.hardwareReset_eq]
  refine ⟨rfl, rfl, rfl, fun cw rest hw hshort => ?_, fun ew rest hw hshort => ?_⟩
  · rw [s.abandonCommand_of_short cw rest hw hshort]
    exact ⟨rfl, rfl⟩
  · rw [s.abandonEvent_of_short ew rest hw hshort]
    exact ⟨rfl, rfl⟩

/-- Settles O30: a word that is whole is not abandoned, and the rest of the ports is not looked at. -/
theorem rstKeepsWhatWaits : Obligations.RstKeepsWhatWaits := by
  intro s hr
  refine ⟨_, step_of_rst s hr, ?_⟩
  rw [s.hardwareReset_eq]
  refine ⟨rfl, rfl, rfl, fun hw => ?_, fun cw rest hw hwhole => ?_, fun hw => ?_, fun ew rest hw hwhole => ?_, rfl,
    rfl, rfl⟩
  · rw [s.abandonCommand_of_nil hw]
    exact ⟨hw, rfl⟩
  · rw [s.abandonCommand_of_whole cw rest hw hwhole]
    exact ⟨rfl, rfl⟩
  · rw [s.abandonEvent_of_nil hw]
    exact ⟨hw, rfl⟩
  · rw [s.abandonEvent_of_whole ew rest hw hwhole]
    exact ⟨rfl, rfl⟩

/-- Settles O31: the step of each source takes its word, and a decoded word is run. -/
theorem stepRunsTheDecodedInstruction : Obligations.StepRunsTheDecodedInstruction := by
  refine ⟨fun s cw rest i hp hw hi => ?_, fun s ew rest i hp hw hi => ?_, step_of_timeBase,
    fun s w rest i hp hw hi => ?_⟩
  · rw [step_of_host s cw rest hp hw, runWord_of_decode _ _ i hi]
  · rw [step_of_transport s ew rest hp hw, runWord_of_decode _ _ i hi]
  · rw [step_of_outbox s w rest hp hw, runWord_of_decode _ _ i hi]

/-- Settles O32: the step of each port takes its word, and a word that decodes to nothing is refused. -/
theorem stepRefusesIllegalWords : Obligations.StepRefusesIllegalWords := by
  refine ⟨fun s cw rest hp hw hi => ?_, fun s ew rest hp hw hi => ?_⟩
  · rw [step_of_host s cw rest hp hw]
    exact runWord_of_illegal _ _ hi
  · rw [step_of_transport s ew rest hp hw]
    exact runWord_of_illegal _ _ hi

/-- Settles O34: the level source has no word; its step drives the oldest level. -/
theorem levelsChangeOnlyThePin : Obligations.LevelsChangeOnlyThePin := by
  intro s level rest hp hl
  rw [step_of_level s hp, s.driveLevel_of_cons level rest hl]

end Sys2Proof.Proofs
end

section
/-! SUPPORT and the statements about the whole machine that speak of one input or one step: the invariants of R38, what
each input can write and emit (R142, R151), that outputs only grow (R62), and the step model (R11, R145). -/

namespace Sys2Proof.Machine

/-! ## The invariant, one lemma per way the session changes -/

theorem Session.inv_reset (p : Params) : Session.reset.Inv p := by
  constructor <;> simp [Session.reset, Session.handleValid]

section
variable {p : Params} {s : Session}

theorem Session.Inv.wdActive_eq_false (h : s.Inv p) (hls : s.ls ≠ .connected) : s.wdActive = false :=
  Bool.eq_false_iff.2 fun ha => hls (h.wd_iff_ls.1 ha)

/-- Outside `CONNECTED` the watchdog is off, so the link state may become any other that is not `CONNECTED`. -/
theorem Session.Inv.leave (h : s.Inv p) (hls : s.ls ≠ .connected) (final : LinkState) (hfinal : final ≠ .connected) :
    ({ s with ls := final } : Session).Inv p where
  busy_iff := h.busy_iff
  busyCnt_le := h.busyCnt_le
  wdCnt_le := h.wdCnt_le
  wd_iff_cnt := h.wd_iff_cnt
  wd_iff_ls := by simp [h.wdActive_eq_false hls, hfinal]
  snap_family := h.snap_family
  handle_iff := Session.handleValid_iff _

theorem Session.Inv.openGate (h : s.Inv p) : s.openGate.Inv p where
  busy_iff := by simp
  busyCnt_le := by simp
  wdCnt_le := h.wdCnt_le
  wd_iff_cnt := h.wd_iff_cnt
  wd_iff_ls := h.wd_iff_ls
  snap_family := h.snap_family
  handle_iff := Session.handleValid_iff _

theorem Session.Inv.closeGate (h : s.Inv p) : s.closeGate.Inv p where
  busy_iff := by simp [busyLoad, Config.busyTicks, Config.busyTimeoutMs, Config.tickMs]
  busyCnt_le := busyLoad_toNat.le
  wdCnt_le := h.wdCnt_le
  wd_iff_cnt := h.wd_iff_cnt
  wd_iff_ls := h.wd_iff_ls
  snap_family := h.snap_family
  handle_iff := Session.handleValid_iff _

/-- A teardown turns the watchdog off first, so it may lead from any link state to any but `CONNECTED` (R130). -/
theorem Session.Inv.teardown (h : s.Inv p) (final : LinkState) (hfinal : final ≠ .connected) :
    ({ s.teardown p with ls := final } : Session).Inv p where
  busy_iff := by obtain ⟨-, hb, hc⟩ | ⟨-, hb, hc⟩ := s.teardown_gate p <;> simp [hb, hc, h.busy_iff]
  busyCnt_le := by
    obtain ⟨-, -, hc⟩ | ⟨-, -, hc⟩ := s.teardown_gate p
    · exact hc ▸ h.busyCnt_le
    · simp [hc]
  wdCnt_le := by simp
  wd_iff_cnt := by simp
  wd_iff_ls := by simp [hfinal]
  snap_family := by simpa using h.snap_family
  handle_iff := Session.handleValid_iff _

theorem Session.Inv.arm (h : s.Inv p) : ({ s.armWd p with ls := .connected } : Session).Inv p where
  busy_iff := h.busy_iff
  busyCnt_le := h.busyCnt_le
  wdCnt_le := (wdLoad_toNat p).le
  wd_iff_cnt := by simp [wdLoad_ne_zero]
  wd_iff_ls := by simp
  snap_family := h.snap_family
  handle_iff := Session.handleValid_iff _

theorem Session.Inv.tickBusy (h : s.Inv p) : s.tickBusy.Inv p where
  busy_iff := by
    rw [Ne, ← toNat_eq_zero_iff, s.tickBusy_busyCnt, s.tickBusy_busy]
    have hbusy := h.busy_iff
    rw [Ne, ← toNat_eq_zero_iff] at hbusy
    split
    next hone => simp [hone]
    next hone => rw [hbusy]; omega
  busyCnt_le := s.tickBusy_busyCnt.trans_le ((Nat.sub_le _ _).trans h.busyCnt_le)
  wdCnt_le := by simpa using h.wdCnt_le
  wd_iff_cnt := by simpa using h.wd_iff_cnt
  wd_iff_ls := by simpa using h.wd_iff_ls
  snap_family := by simpa using h.snap_family
  handle_iff := Session.handleValid_iff _

/-- A new watchdog count that is zero exactly when the old one was keeps the invariant. -/
theorem Session.Inv.setWdCnt (h : s.Inv p) (count : BitVec 16) (hle : count.toNat ≤ Config.wdTicks p.family)
    (hzero : count = 0 ↔ s.wdCnt = 0) : ({ s with wdCnt := count } : Session).Inv p where
  busy_iff := h.busy_iff
  busyCnt_le := h.busyCnt_le
  wdCnt_le := hle
  wd_iff_cnt := h.wd_iff_cnt.trans (not_congr hzero).symm
  wd_iff_ls := h.wd_iff_ls
  snap_family := h.snap_family
  handle_iff := Session.handleValid_iff _

theorem Session.Inv.tickWatchdog (h : s.Inv p) : (s.tickWatchdog p).session.Inv p := by
  obtain ⟨hone, hfire⟩ | ⟨hone, count, hcount, htick⟩ := s.tickWatchdog_cases p
  · rw [hfire]
    refine h.setWdCnt _ (wdLoad_toNat p).le ⟨fun e => absurd e (wdLoad_ne_zero p), fun e => ?_⟩
    rw [e] at hone
    cases hone
  · rw [htick]
    refine h.setWdCnt count (hcount.trans_le ((Nat.sub_le _ _).trans h.wdCnt_le)) ?_
    rw [← toNat_eq_zero_iff, ← toNat_eq_zero_iff, hcount]
    omega

theorem Session.Inv.storeMessage (h : s.Inv p) (rawBytes : List Byte) (hlength : rawBytes.length ≤ Config.msgMax) :
    (storeMessage p rawBytes s).Inv p := by
  cases hfamily : p.family
  case a => rwa [storeMessage_of_familyA p rawBytes s hfamily]
  case b =>
    rw [storeMessage_of_familyB p rawBytes s hfamily]
    exact
      { busy_iff := h.busy_iff
        busyCnt_le := h.busyCnt_le
        wdCnt_le := h.wdCnt_le
        wd_iff_cnt := h.wd_iff_cnt
        wd_iff_ls := h.wd_iff_ls
        snap_family := fun bytes hbytes => by cases hbytes; exact ⟨hfamily, hlength⟩
        handle_iff := Session.handleValid_iff _ }

end

/-! ## The invariant after a handler, a meaning, a step -/

@[simp] theorem storeMessage_ls (p : Params) (rawBytes : List Byte) (s : Session) :
    (storeMessage p rawBytes s).ls = s.ls := by
  unfold storeMessage; split <;> rfl

@[simp] theorem storeMessage_busy (p : Params) (rawBytes : List Byte) (s : Session) :
    (storeMessage p rawBytes s).busy = s.busy := by
  unfold storeMessage; split <;> rfl

@[simp] theorem storeMessage_busyCnt (p : Params) (rawBytes : List Byte) (s : Session) :
    (storeMessage p rawBytes s).busyCnt = s.busyCnt := by
  unfold storeMessage; split <;> rfl

theorem Session.ls_ne_connected_of_no_handle (s : Session) (h : s.handleValid = false) : s.ls ≠ .connected := by
  intro hls
  simp [Session.handleValid, hls] at h

/-- Every input that a port can spell keeps the invariant (R38). -/
theorem reaction_keeps_inv (p : Params) (level : Bool) (s : Session) (i : Instr) (r : Reaction)
    (hr : reaction p level s i = some r) (hi : WellFormed i = true) (h : s.Inv p) : r.session.Inv p := by
  cases i <;> simp only [reaction, Option.some.injEq, reduceCtorEq] at hr <;> subst hr
  case crcCompute | encByteWrite | encWordWrite | encRaw | isConnected => exact h
  case scan =>
    cases hhandle : s.handleValid
    case true => rw [onScan_of_handle p s hhandle]; exact h.teardown .scanning (by decide)
    case false =>
      rw [onScan_of_no_handle p s hhandle]
      exact h.leave (s.ls_ne_connected_of_no_handle hhandle) .scanning (by decide)
  case connect id => unfold onConnectCommand; split <;> exact h
  case disconnect => exact h.teardown .disconnected (by decide)
  case sreset => exact h.teardown .idle (by decide)
  case send =>
    unfold onSend
    split
    · exact h.closeGate
    · exact h
  case evConnect =>
    unfold onEvConnect
    split
    · exact h.arm
    · exact h
  case evWriteDone => exact h.openGate
  case evMessage rawBytes =>
    unfold onEvMessage
    split
    next hls =>
      have hstored := (h.storeMessage rawBytes (of_decide_eq_true hi)).arm
      have hls' : (storeMessage p rawBytes s).ls = .connected := (storeMessage_ls p rawBytes s).trans hls
      rwa [← hls'] at hstored
    next => exact h
  case evTick => exact h.tickBusy.tickWatchdog

theorem exec_keeps_inv (i : Instr) (s t : State) (h : exec i s = .next t) (hi : WellFormed i = true) (hs : s.Inv) :
    t.Inv := by
  obtain ⟨r, hr, rfl⟩ | ⟨-, hsession, -⟩ := exec_next_cases i s t h
  · exact reaction_keeps_inv _ _ _ i r hr hi hs
  · exact (congrArg (Session.Inv Config.params) hsession).mpr hs

/-- What a port spells is well formed, so a step keeps the invariant whatever stands at the ports. -/
theorem step_keeps_inv (s t : State) (hs : s.Inv) (h : step s = .next t) : t.Inv := by
  obtain rfl | ⟨-, rfl⟩ | rfl | ⟨source, w, u, i, hfetch, hdecode, hexec⟩ := step_next_cases s t h
  · exact hs
  · exact Session.inv_reset Config.params
  · exact (congrArg (Session.Inv Config.params) s.driveLevel_session).mpr hs
  · obtain ⟨hsession, -⟩ := fetch_frame source s w u hfetch
    refine exec_keeps_inv i u t hexec (encodeWith_of_decodeWith _ w i hdecode).2 ?_
    exact (congrArg (Session.Inv Config.params) hsession).mpr hs

/-! ## Outputs only grow -/

theorem exec_outputs_grow (i : Instr) (s t : State) (h : exec i s = .next t) :
    s.requests <+: t.requests ∧ s.results <+: t.results := by
  obtain ⟨r, -, rfl⟩ | ⟨-, -, -, out, res, hout, hres⟩ := exec_next_cases i s t h
  · exact ⟨⟨_, rfl⟩, ⟨_, rfl⟩⟩
  · rw [hout, hres]
    exact ⟨⟨_, rfl⟩, ⟨_, rfl⟩⟩

theorem State.driveLevel_requests (s : State) : s.driveLevel.requests = s.requests := by
  unfold State.driveLevel; split <;> rfl

theorem State.driveLevel_results (s : State) : s.driveLevel.results = s.results := by
  unfold State.driveLevel; split <;> rfl

theorem State.hardwareReset_requests (s : State) : s.hardwareReset.requests = s.requests := by
  rw [s.hardwareReset_eq]

theorem State.hardwareReset_results (s : State) : s.hardwareReset.results = s.results := by
  rw [s.hardwareReset_eq]

theorem step_outputs_grow (s t : State) (h : step s = .next t) :
    s.requests <+: t.requests ∧ s.results <+: t.results := by
  obtain rfl | ⟨-, rfl⟩ | rfl | ⟨source, w, u, i, hfetch, -, hexec⟩ := step_next_cases s t h
  · exact ⟨⟨[], List.append_nil _⟩, ⟨[], List.append_nil _⟩⟩
  · rw [s.hardwareReset_requests, s.hardwareReset_results]
    exact ⟨⟨[], List.append_nil _⟩, ⟨[], List.append_nil _⟩⟩
  · rw [s.driveLevel_requests, s.driveLevel_results]
    exact ⟨⟨[], List.append_nil _⟩, ⟨[], List.append_nil _⟩⟩
  · obtain ⟨-, hrequests, hresults, -⟩ := fetch_frame source s w u hfetch
    rw [← hrequests, ← hresults]
    exact exec_outputs_grow i u t hexec

/-! ## The link state after each handler -/

theorem onConnectCommand_session (peripheralId : PeripheralId) (s : Session) :
    (onConnectCommand peripheralId s).session = s := by
  unfold onConnectCommand; split <;> rfl

theorem onSend_ls (p : Params) (level : Bool) (service : ServiceId) (characteristic : CharId) (payload : List Byte)
    (s : Session) : (onSend p level service characteristic payload s).session.ls = s.ls := by
  unfold onSend; split <;> rfl

theorem onEvConnect_ls (p : Params) (s : Session) :
    (onEvConnect p s).session.ls = if s.ls = .scanning ∨ s.ls = .connected then .connected else s.ls := by
  simp only [onEvConnect, s.handleValid_iff]
  split <;> rfl

theorem onEvMessage_ls (p : Params) (rawBytes : List Byte) (s : Session) :
    (onEvMessage p rawBytes s).session.ls = s.ls := by
  unfold onEvMessage
  split
  · exact storeMessage_ls p rawBytes s
  · rfl

@[simp] theorem Session.tickWatchdog_ls (p : Params) (s : Session) : (s.tickWatchdog p).session.ls = s.ls := by
  obtain ⟨-, hfire⟩ | ⟨-, _, -, hcount⟩ := s.tickWatchdog_cases p
  · rw [hfire]
  · rw [hcount]

theorem onEvTick_ls (p : Params) (s : Session) : (onEvTick p s).session.ls = s.ls := by
  simp [onEvTick]

/-- The `ls` column of R142: three commands write a constant, `EV_CONNECT` with a handle writes `CONNECTED`. -/
def linkAfter (i : Instr) (ls : LinkState) : LinkState :=
  if i = .scan then .scanning
  else if i = .disconnect then .disconnected
  else if i = .sreset then .idle
  else if i = .evConnect ∧ (ls = .scanning ∨ ls = .connected) then .connected
  else ls

theorem reaction_ls (p : Params) (level : Bool) (s : Session) (i : Instr) (r : Reaction)
    (h : reaction p level s i = some r) : r.session.ls = linkAfter i s.ls := by
  cases i <;> simp only [reaction, Option.some.injEq, reduceCtorEq] at h <;> subst h
  case scan | disconnect | sreset | isConnected | evWriteDone => simp [linkAfter, onScan, onDisconnect, onSreset,
    onIsConnected, onEvWriteDone]
  case connect => rw [onConnectCommand_session]; simp [linkAfter]
  case send => rw [onSend_ls]; simp [linkAfter]
  case evConnect => rw [onEvConnect_ls]; simp [linkAfter]
  case evMessage => rw [onEvMessage_ls]; simp [linkAfter]
  case evTick => rw [onEvTick_ls]; simp [linkAfter]
  all_goals simp [linkAfter]

theorem linkAfter_of_output (i : Instr) (ls : LinkState) (h : i.isInput = false) : linkAfter i ls = ls := by
  have hne (j : Instr) (hj : j.isInput = true) : i ≠ j := fun e => by rw [e, hj] at h; cases h
  simp [linkAfter, hne .scan rfl, hne .disconnect rfl, hne .sreset rfl, hne .evConnect rfl]

/-! ## The requests of each handler -/

theorem mem_teardownRequests (s : Session) (r : Request) :
    r ∈ s.teardownRequests ↔ r = .teardown ∧ (s.ls = .scanning ∨ s.ls = .connected) := by
  rw [s.teardownRequests_eq]
  split <;> simp [*]

/-- Which input under which condition a request comes from (R142). -/
def Request.ComesFrom (p : Params) (level : Bool) (s : Session) (i : Instr) : Request → Prop
  | .write framing service characteristic payload =>
    i = .send service characteristic payload ∧ framing = p.writeFraming ∧
      s.ls = .connected ∧ level = true ∧ s.busy = false
  | .linkError reason => i = .evTick ∧ reason = 0x01 ∧ s.wdCnt = 1
  | .teardown => (i = .scan ∨ i = .disconnect ∨ i = .sreset) ∧ (s.ls = .scanning ∨ s.ls = .connected)
  | .discover => i = .scan
  | .connect id => i = .connect id ∧ (s.ls = .scanning ∨ s.ls = .connected)
  | .subscribe service characteristic =>
    i = .evConnect ∧ service = p.rxService ∧ characteristic = p.rxChar ∧ (s.ls = .scanning ∨ s.ls = .connected)

theorem onConnectCommand_out (peripheralId : PeripheralId) (s : Session) :
    (onConnectCommand peripheralId s).out =
      if s.ls = .scanning ∨ s.ls = .connected then [.connect peripheralId] else [] := by
  simp only [onConnectCommand, s.handleValid_iff]
  split <;> rfl

theorem onSend_out (p : Params) (level : Bool) (service : ServiceId) (characteristic : CharId) (payload : List Byte)
    (s : Session) :
    (onSend p level service characteristic payload s).out =
      if s.ls = .connected ∧ level = true ∧ s.busy = false then
        [.write p.writeFraming service characteristic payload] else [] := by
  simp only [onSend, s.eligible_iff level]
  split <;> rfl

theorem onEvConnect_out (p : Params) (s : Session) :
    (onEvConnect p s).out =
      if s.ls = .scanning ∨ s.ls = .connected then [.subscribe p.rxService p.rxChar] else [] := by
  simp only [onEvConnect, s.handleValid_iff]
  split <;> rfl

theorem onEvMessage_out (p : Params) (rawBytes : List Byte) (s : Session) : (onEvMessage p rawBytes s).out = [] := by
  unfold onEvMessage; split <;> rfl

theorem onEvTick_out (p : Params) (s : Session) :
    (onEvTick p s).out = if s.wdCnt.toNat = 1 then [.linkError Config.reasonDataStopped] else [] := by
  obtain ⟨count, out, htick, hwatchdog⟩ := onEvTick_eq p s
  rw [htick]
  split at hwatchdog
  next hone => rw [if_pos hone]; exact hwatchdog.2
  next hone => rw [if_neg hone]; exact hwatchdog.2

theorem reaction_out_comesFrom (p : Params) (level : Bool) (s : Session) (i : Instr) (r : Reaction)
    (h : reaction p level s i = some r) : ∀ q ∈ r.out, q.ComesFrom p level s i := by
  intro q hq
  cases i <;> simp only [reaction, Option.some.injEq, reduceCtorEq] at h <;> subst h
  case crcCompute | encByteWrite | encWordWrite | encRaw | isConnected | evWriteDone => cases hq
  case scan =>
    obtain hq | hq := List.mem_append.1 hq
    · obtain ⟨rfl, hls⟩ := (mem_teardownRequests s q).1 hq
      exact ⟨.inl rfl, hls⟩
    · cases List.mem_singleton.1 hq
      rfl
  case connect id =>
    rw [onConnectCommand_out] at hq
    split at hq
    next hls => cases List.mem_singleton.1 hq; exact ⟨rfl, hls⟩
    next => cases hq
  case disconnect =>
    obtain ⟨rfl, hls⟩ := (mem_teardownRequests s q).1 hq
    exact ⟨.inr (.inl rfl), hls⟩
  case sreset =>
    obtain ⟨rfl, hls⟩ := (mem_teardownRequests s q).1 hq
    exact ⟨.inr (.inr rfl), hls⟩
  case send =>
    rw [onSend_out] at hq
    split at hq
    next heligible => cases List.mem_singleton.1 hq; exact ⟨rfl, rfl, heligible⟩
    next => cases hq
  case evConnect =>
    rw [onEvConnect_out] at hq
    split at hq
    next hls => cases List.mem_singleton.1 hq; exact ⟨rfl, rfl, rfl, hls⟩
    next => cases hq
  case evMessage =>
    rw [onEvMessage_out] at hq
    cases hq
  case evTick =>
    rw [onEvTick_out] at hq
    split at hq
    next hone => cases List.mem_singleton.1 hq; exact ⟨rfl, rfl, BitVec.eq_of_toNat_eq hone⟩
    next => cases hq

/-! ## Two families -/

/-- Equal but for the watchdog's count and the snapshot (R145). -/
def Reaction.AlikeButForFamily (q r : Reaction) : Prop :=
  q.out = r.out ∧ q.res = r.res ∧ q.session.ls = r.session.ls ∧ q.session.busy = r.session.busy ∧
    q.session.busyCnt = r.session.busyCnt ∧ q.session.wdActive = r.session.wdActive

theorem Reaction.AlikeButForFamily.refl (r : Reaction) : r.AlikeButForFamily r := ⟨rfl, rfl, rfl, rfl, rfl, rfl⟩

theorem onEvConnect_alike (p : Params) (f : Family) (s : Session) :
    (onEvConnect { p with family := f } s).AlikeButForFamily (onEvConnect p s) := by
  cases h : s.handleValid
  case true =>
    rw [onEvConnect_of_handle _ s h, onEvConnect_of_handle _ s h]
    exact ⟨rfl, rfl, rfl, rfl, rfl, rfl⟩
  case false =>
    rw [onEvConnect_of_no_handle _ s h, onEvConnect_of_no_handle _ s h]
    exact .refl _

theorem onEvMessage_alike (p : Params) (f : Family) (rawBytes : List Byte) (s : Session) :
    (onEvMessage { p with family := f } rawBytes s).AlikeButForFamily (onEvMessage p rawBytes s) := by
  by_cases h : s.ls = .connected
  · rw [onEvMessage_of_connected _ rawBytes s h, onEvMessage_of_connected _ rawBytes s h]
    exact ⟨rfl, rfl, by simp, by simp, by simp, rfl⟩
  · rw [onEvMessage_of_not_connected _ rawBytes s h, onEvMessage_of_not_connected _ rawBytes s h]
    exact .refl _

theorem onEvTick_alike (p : Params) (f : Family) (s : Session) :
    (onEvTick { p with family := f } s).AlikeButForFamily (onEvTick p s) := by
  have hout : (onEvTick { p with family := f } s).out = (onEvTick p s).out := by rw [onEvTick_out, onEvTick_out]
  obtain ⟨count, out, htick, -⟩ := onEvTick_eq p s
  obtain ⟨count', out', htick', -⟩ := onEvTick_eq { p with family := f } s
  refine ⟨hout, ?_⟩
  rw [htick, htick']
  exact ⟨rfl, rfl, rfl, rfl, rfl⟩

theorem reaction_alike (p : Params) (f : Family) (level : Bool) (s : Session) (i : Instr) (r q : Reaction)
    (hr : reaction p level s i = some r) (hq : reaction { p with family := f } level s i = some q) :
    q.AlikeButForFamily r ∧ (i ≠ .evConnect → i ≠ .evTick → isMessage i = false → q = r) := by
  cases i
  case evConnect => cases hr; cases hq; exact ⟨onEvConnect_alike p f s, fun h => absurd rfl h⟩
  case evTick => cases hr; cases hq; exact ⟨onEvTick_alike p f s, fun _ h => absurd rfl h⟩
  case evMessage rawBytes =>
    cases hr; cases hq
    exact ⟨onEvMessage_alike p f rawBytes s, fun _ _ h => nomatch h⟩
  all_goals
    obtain rfl : q = r := Option.some.inj (hq.symm.trans hr)
    exact ⟨.refl q, fun _ _ _ => rfl⟩

end Sys2Proof.Machine

namespace Sys2Proof.Proofs
open Sys2Proof.Machine

/-- Settles O38: every handler keeps the invariant on a well-formed input, and the decoder gives no other. -/
theorem stepKeepsTheInvariant : Obligations.StepKeepsTheInvariant := step_keeps_inv

/-- Settles O37: both timers are 0 at reset and there is no snapshot. -/
theorem invariantHoldsAtReset : Obligations.InvariantHoldsAtReset := Session.inv_reset Config.params

/-- Settles O39: by induction on how the state is reached. -/
theorem invariantHoldsWhenReachable : Obligations.InvariantHoldsWhenReachable := by
  intro s h
  induction h with
  | reset => exact Session.inv_reset Config.params
  | step _ hstep ih => exact step_keeps_inv _ _ ih hstep
  | inputs _ henv ih => exact (congrArg (Session.Inv Config.params) henv.1).mpr ih

/-- Settles O40: a handler's outputs are appended, and no other way to a next state touches what has left. -/
theorem outputsOnlyGrow : Obligations.OutputsOnlyGrow := step_outputs_grow

/-- Settles O41: an input commits its handler's session, an output row leaves the session alone. -/
theorem onlyFourInputsWriteTheLinkState : Obligations.OnlyFourInputsWriteTheLinkState := by
  intro i s t h
  obtain ⟨r, hr, rfl⟩ | ⟨hi, hsession, -⟩ := exec_next_cases i s t h
  · exact reaction_ls _ _ _ i r hr
  · rw [hsession]
    exact (linkAfter_of_output i s.session.ls hi).symm

/-- Settles O42: handler by handler, each request with the condition it is emitted under. -/
theorem requestsComeFromTheirInputsAlone : Obligations.RequestsComeFromTheirInputsAlone := by
  intro i s t hi h
  obtain ⟨r, hr⟩ := reaction_isSome Config.params s.tConnected s.session i hi
  rw [exec_of_reaction i s r hr] at h
  cases h
  refine ⟨r.out, rfl, fun q hq => ?_⟩
  have hfrom := reaction_out_comesFrom _ _ _ i r hr q hq
  cases q <;> exact hfrom

/-- Settles O45: every input has a reaction, and its meaning commits it. -/
theorem execIsTheStepModel : Obligations.ExecIsTheStepModel := by
  intro i s hi
  obtain ⟨r, hr⟩ := reaction_isSome Config.params s.tConnected s.session i hi
  exact ⟨r, hr, exec_answers_of_reaction i s r hr⟩

/-- Settles O46: three handlers read the family, for the watchdog's interval and for what a message leaves. -/
theorem familyChangesWatchdogAndSnapshotOnly : Obligations.FamilyChangesWatchdogAndSnapshotOnly := by
  intro p f level s i r q hr hq
  obtain ⟨⟨hout, hres, hls, hbusy, hcnt, hactive⟩, hsame⟩ := reaction_alike p f level s i r q hr hq
  exact ⟨hout, hres, hls, hbusy, hcnt, hactive, fun h₁ h₂ h₃ => congrArg Reaction.session (hsame h₁ h₂ h₃)⟩

end Sys2Proof.Proofs
end

section
/-! SUPPORT and the statements about runs over inputs that speak of the busy gate: one induction for every property a
run keeps (R61), what an input does to the gate, and the gate over a run (R140, R146 to R149, R206, R207). -/

namespace Sys2Proof.Machine

/-! ## Runs -/

/-- The induction over a run: what holds of the inputs to come and the state, and what each input hands on to the next,
holds when no input is left; and the run answers a state. -/
theorem runInputs_keeps (J : List Stimulus → State → Prop)
    (hstep : ∀ x xs s, J (x :: xs) s → ∃ r, reaction Config.params x.level s.session x.input = some r ∧
      J xs ({ s with tConnected := x.level }.commit r))
    (xs : List Stimulus) (s : State) (h : J xs s) : ∃ t, runInputs xs s = .next t ∧ J [] t := by
  induction xs generalizing s with
  | nil => exact ⟨s, rfl, h⟩
  | cons x xs ih =>
    obtain ⟨r, hr, hnext⟩ := hstep x xs s h
    rw [runInputs_cons x xs s r hr]
    exact ih _ hnext

theorem runInputs_append_of_next {xs : List Stimulus} {s t : State} (ys : List Stimulus)
    (h : runInputs xs s = .next t) : runInputs (xs ++ ys) s = runInputs ys t := by
  rw [runInputs_append, h]

theorem runInputs_singleton (x : Stimulus) (s : State) (r : Reaction)
    (h : reaction Config.params x.level s.session x.input = some r) :
    runInputs [x] s = .next ({ s with tConnected := x.level }.commit r) :=
  runInputs_cons x [] s r h

/-! ## Writes and link errors among requests -/

@[simp] theorem writesOf_append (xs ys : List Request) : writesOf (xs ++ ys) = writesOf xs ++ writesOf ys :=
  List.filter_append ..

@[simp] theorem linkErrorsOf_append (xs ys : List Request) :
    linkErrorsOf (xs ++ ys) = linkErrorsOf xs ++ linkErrorsOf ys :=
  List.filter_append ..

section
variable {p : Params} {level : Bool} {s : Session} {i : Instr} {r : Reaction}

/-- Behind a shut gate no input is written (R136). -/
theorem writesOf_reaction_of_busy (hr : reaction p level s i = some r) (hbusy : s.busy = true) :
    writesOf r.out = [] := by
  refine List.filter_eq_nil_iff.2 fun q hq hwrite => ?_
  have hfrom := reaction_out_comesFrom p level s i r hr q hq
  cases q
  case write =>
    obtain ⟨-, -, -, -, hopen⟩ := hfrom
    rw [hbusy] at hopen
    cases hopen
  all_goals cases hwrite

/-- Only the tick that takes the watchdog's count from 1 reports a link error (R141). -/
theorem linkErrorsOf_reaction (hr : reaction p level s i = some r) (h : i = .evTick → s.wdCnt ≠ 1) :
    linkErrorsOf r.out = [] := by
  refine List.filter_eq_nil_iff.2 fun q hq herror => ?_
  have hfrom := reaction_out_comesFrom p level s i r hr q hq
  cases q
  case linkError =>
    obtain ⟨htick, -, hone⟩ := hfrom
    exact h htick hone
  all_goals cases herror

/-! ## What one input does to the busy gate -/

/-- Everything an input can do to the gate: close it, open it, tear down, count, or leave it alone. -/
theorem reaction_gate_cases (hr : reaction p level s i = some r) :
    (s.busy = false ∧ r.session.busy = true ∧ r.session.busyCnt = busyLoad) ∨
    (i = .evWriteDone ∧ r.session.busy = false ∧ r.session.busyCnt = 0) ∨
    (isTeardown i = true ∧ r.session.busy = (s.teardown p).busy ∧ r.session.busyCnt = (s.teardown p).busyCnt) ∨
    (i = .evTick ∧ r.session.busy = s.tickBusy.busy ∧ r.session.busyCnt = s.tickBusy.busyCnt) ∨
    (i ≠ .evTick ∧ r.session.busy = s.busy ∧ r.session.busyCnt = s.busyCnt) := by
  cases i <;> simp only [reaction, Option.some.injEq, reduceCtorEq] at hr <;> subst hr
  case scan =>
    cases h : s.handleValid
    case true => rw [onScan_of_handle p s h]; exact .inr (.inr (.inl ⟨rfl, rfl, rfl⟩))
    case false => rw [onScan_of_no_handle p s h]; exact .inr (.inr (.inr (.inr ⟨by simp, rfl, rfl⟩)))
  case disconnect | sreset => exact .inr (.inr (.inl ⟨rfl, rfl, rfl⟩))
  case connect => rw [onConnectCommand_session]; exact .inr (.inr (.inr (.inr ⟨by simp, rfl, rfl⟩)))
  case send service characteristic payload =>
    cases h : s.eligible level
    case true =>
      rw [onSend_of_eligible p level service characteristic payload s h]
      exact .inl ⟨((s.eligible_iff level).1 h).2.2, rfl, rfl⟩
    case false =>
      rw [onSend_of_not_eligible p level service characteristic payload s h]
      exact .inr (.inr (.inr (.inr ⟨by simp, rfl, rfl⟩)))
  case evConnect =>
    cases h : s.handleValid
    case true => rw [onEvConnect_of_handle p s h]; exact .inr (.inr (.inr (.inr ⟨by simp, rfl, rfl⟩)))
    case false => rw [onEvConnect_of_no_handle p s h]; exact .inr (.inr (.inr (.inr ⟨by simp, rfl, rfl⟩)))
  case evWriteDone => exact .inr (.inl ⟨rfl, rfl, rfl⟩)
  case evMessage rawBytes =>
    by_cases h : s.ls = .connected
    · rw [onEvMessage_of_connected p rawBytes s h]
      exact .inr (.inr (.inr (.inr ⟨by simp, by simp, by simp⟩)))
    · rw [onEvMessage_of_not_connected p rawBytes s h]
      exact .inr (.inr (.inr (.inr ⟨by simp, rfl, rfl⟩)))
  case evTick =>
    obtain ⟨count, out, htick, -⟩ := onEvTick_eq p s
    rw [htick]
    exact .inr (.inr (.inr (.inl ⟨rfl, rfl, rfl⟩)))
  all_goals exact .inr (.inr (.inr (.inr ⟨by simp, rfl, rfl⟩)))

end

/-! ## The busy gate over a run -/

/-- No completion, and no teardown that opens the gate: the inputs R146 and R148 speak of. -/
def Stimulus.LeavesGate (x : Stimulus) : Prop :=
  x.input.isInput = true ∧ x.input ≠ .evWriteDone ∧
    (isTeardown x.input = true → Config.params.busyOnDisconnect = .runToExpiry)

theorem tickCount_cons (x : Stimulus) (xs : List Stimulus) :
    tickCount (x :: xs) = tickCount xs + if x.input = .evTick then 1 else 0 := by
  simp only [tickCount, List.countP_cons, beq_iff_eq]

theorem tickCount_tickRun (level : Bool) (k : Nat) : tickCount (tickRun level k) = k := by
  simp [tickCount, tickRun, List.countP_replicate]

/-- Such an input leaves a shut gate shut, and only a tick counts, while the timer does not run out. -/
theorem reaction_keeps_gate (x : Stimulus) (hx : x.LeavesGate) (level : Bool) (s : Session) (r : Reaction)
    (hr : reaction Config.params level s x.input = some r) (hbusy : s.busy = true)
    (hcnt : (if x.input = .evTick then 1 else 0) < s.busyCnt.toNat) :
    r.session.busy = true ∧
      r.session.busyCnt.toNat + (if x.input = .evTick then 1 else 0) = s.busyCnt.toNat := by
  obtain ⟨-, hdone, hteardown⟩ := hx
  obtain ⟨hopen, -⟩ | ⟨hi, -⟩ | ⟨hi, hb, hc⟩ | ⟨hi, hb, hc⟩ | ⟨hi, hb, hc⟩ := reaction_gate_cases hr
  · rw [hbusy] at hopen
    cases hopen
  · exact absurd hi hdone
  · have htick : x.input ≠ .evTick := by
      rintro e
      rw [e] at hi
      cases hi
    rw [s.teardown_of_runToExpiry _ (hteardown hi)] at hb hc
    rw [hb, hc, if_neg htick]
    exact ⟨hbusy, rfl⟩
  · rw [if_pos hi] at hcnt ⊢
    rw [hb, hc, s.tickBusy_busy, s.tickBusy_busyCnt, if_neg (by omega)]
    exact ⟨hbusy, by omega⟩
  · rw [hb, hc, if_neg hi]
    exact ⟨hbusy, rfl⟩

/-- What a run behind a shut gate keeps: the timer shows `n` more than the ticks still to come, and the writes are
those in `writes`. -/
def GateShut (n : Nat) (writes : List Request) (xs : List Stimulus) (s : State) : Prop :=
  (∀ x ∈ xs, x.LeavesGate) ∧ s.session.busy = true ∧ s.session.busyCnt.toNat = n + tickCount xs ∧
    writesOf s.requests = writes

theorem GateShut.next {n : Nat} {writes : List Request} (hn : 0 < n) (x : Stimulus) (xs : List Stimulus) (s : State)
    (h : GateShut n writes (x :: xs) s) :
    ∃ r, reaction Config.params x.level s.session x.input = some r ∧
      GateShut n writes xs ({ s with tConnected := x.level }.commit r) := by
  obtain ⟨hx, hbusy, hcnt, hwrites⟩ := h
  obtain ⟨hx, hxs⟩ := List.forall_mem_cons.1 hx
  obtain ⟨r, hr⟩ := reaction_isSome Config.params x.level s.session x.input hx.1
  rw [tickCount_cons] at hcnt
  obtain ⟨hbusy', hcnt'⟩ := reaction_keeps_gate x hx x.level s.session r hr hbusy (by omega)
  refine ⟨r, hr, hxs, hbusy', ?_, ?_⟩
  · rw [State.commit_session]
    omega
  · rw [State.commit_requests, writesOf_append, writesOf_reaction_of_busy hr hbusy, List.append_nil]
    exact hwrites

/-- Through a run with fewer ticks than the timer shows the gate stays shut and nothing is written (R146). -/
theorem runInputs_gate_shut (xs : List Stimulus) (s : State) (n : Nat) (hx : ∀ x ∈ xs, x.LeavesGate)
    (hbusy : s.session.busy = true) (hcnt : s.session.busyCnt.toNat = n + tickCount xs) (hn : 0 < n) :
    ∃ t, runInputs xs s = .next t ∧ t.session.busy = true ∧ t.session.busyCnt.toNat = n ∧
      writesOf t.requests = writesOf s.requests := by
  obtain ⟨t, ht, -, hb, hc, hw⟩ := runInputs_keeps (GateShut n _) (GateShut.next hn) xs s ⟨hx, hbusy, hcnt, rfl⟩
  exact ⟨t, ht, hb, hc, hw⟩

/-- One tick more and the timer has run out: the gate is open, still nothing is written (R148). -/
theorem runInputs_gate_expires (xs : List Stimulus) (level : Bool) (s : State) (hx : ∀ x ∈ xs, x.LeavesGate)
    (hbusy : s.session.busy = true) (hcnt : s.session.busyCnt.toNat = 1 + tickCount xs) :
    ∃ t, runInputs (xs ++ [⟨level, .evTick⟩]) s = .next t ∧ t.session.busy = false ∧ t.session.busyCnt = 0 ∧
      writesOf t.requests = writesOf s.requests := by
  obtain ⟨t, ht, hb, hc, hw⟩ := runInputs_gate_shut xs s 1 hx hbusy hcnt Nat.one_pos
  obtain ⟨count, out, htick, -⟩ := onEvTick_eq Config.params t.session
  have hr : reaction Config.params level t.session .evTick = some _ := congrArg some htick
  rw [runInputs_append_of_next _ ht, runInputs_singleton ⟨level, .evTick⟩ t _ hr]
  refine ⟨_, rfl, ?_, ?_, ?_⟩
  · simp [t.session.tickBusy_busy, hc]
  · rw [State.commit_session, ← toNat_eq_zero_iff, t.session.tickBusy_busyCnt, hc]
  · rw [State.commit_requests, writesOf_append, writesOf_reaction_of_busy hr hb, List.append_nil]
    exact hw

/-- The machine after an accepted `SEND` of `m`, a service, a characteristic and a payload (R136). -/
def State.afterSend (s : State) (m : ServiceId × CharId × List Byte) : State :=
  { s with tConnected := true }.commit
    ⟨s.session.closeGate, [.write Config.params.writeFraming m.1 m.2.1 m.2.2], some .completion⟩

section
variable (s : State) (m : ServiceId × CharId × List Byte)

@[simp] theorem State.afterSend_ls : (s.afterSend m).session.ls = s.session.ls := rfl

@[simp] theorem State.afterSend_busy : (s.afterSend m).session.busy = true := rfl

@[simp] theorem State.afterSend_busyCnt : (s.afterSend m).session.busyCnt.toNat = 5000 := busyLoad_toNat

@[simp] theorem State.afterSend_requests :
    (s.afterSend m).requests = s.requests ++ [.write Config.params.writeFraming m.1 m.2.1 m.2.2] := rfl

theorem State.afterSend_writes :
    writesOf (s.afterSend m).requests =
      writesOf s.requests ++ [.write Config.params.writeFraming m.1 m.2.1 m.2.2] := writesOf_append ..

theorem runInputs_send (xs : List Stimulus) (hls : s.session.ls = .connected) (hbusy : s.session.busy = false) :
    runInputs (⟨true, .send m.1 m.2.1 m.2.2⟩ :: xs) s = runInputs xs (s.afterSend m) :=
  runInputs_cons _ xs s _
    (congrArg some (onSend_of_eligible _ _ _ _ _ _ ((s.session.eligible_iff true).2 ⟨hls, rfl, hbusy⟩)))

/-- A completion, then a `SEND` in `CONNECTED`: it is written, whatever the gate was (R136, R138). -/
theorem runInputs_writeDone_send (hls : s.session.ls = .connected) :
    ∃ t : State, runInputs [⟨true, .evWriteDone⟩, ⟨true, .send m.1 m.2.1 m.2.2⟩] s = .next (t.afterSend m) ∧
      t.requests = s.requests ∧ t.session = s.session.openGate := by
  let t : State := { s with tConnected := true }.commit ⟨s.session.openGate, [], none⟩
  have hdone : runInputs [⟨true, .evWriteDone⟩, ⟨true, .send m.1 m.2.1 m.2.2⟩] s =
      runInputs [⟨true, .send m.1 m.2.1 m.2.2⟩] t := runInputs_cons ⟨true, .evWriteDone⟩ _ s _ rfl
  exact ⟨t, hdone.trans (runInputs_send t m [] hls rfl), List.append_nil _, rfl⟩

end

/-! ## The link state over a run -/

/-- An input that writes no link state (R151). -/
def Stimulus.LeavesLink (x : Stimulus) : Prop := x.input.isInput = true ∧ ∀ ls, linkAfter x.input ls = ls

/-- What a run of such inputs keeps. -/
def LinkIs (ls : LinkState) (xs : List Stimulus) (s : State) : Prop :=
  (∀ x ∈ xs, x.LeavesLink) ∧ s.session.ls = ls

theorem LinkIs.next {ls : LinkState} (x : Stimulus) (xs : List Stimulus) (s : State) (h : LinkIs ls (x :: xs) s) :
    ∃ r, reaction Config.params x.level s.session x.input = some r ∧
      LinkIs ls xs ({ s with tConnected := x.level }.commit r) := by
  obtain ⟨hx, hls⟩ := h
  obtain ⟨⟨hi, hkeeps⟩, hxs⟩ := List.forall_mem_cons.1 hx
  obtain ⟨r, hr⟩ := reaction_isSome Config.params x.level s.session x.input hi
  exact ⟨r, hr, hxs, (reaction_ls _ _ _ _ r hr).trans ((hkeeps _).trans hls)⟩

theorem runInputs_ls (xs : List Stimulus) (s t : State) (hx : ∀ x ∈ xs, x.LeavesLink) (h : runInputs xs s = .next t) :
    t.session.ls = s.session.ls := by
  obtain ⟨t', ht', -, hls⟩ := runInputs_keeps (LinkIs s.session.ls) LinkIs.next xs s ⟨hx, rfl⟩
  rw [h] at ht'
  cases ht'
  exact hls

theorem leavesLink_tick (level : Bool) : (⟨level, .evTick⟩ : Stimulus).LeavesLink := ⟨rfl, fun _ => rfl⟩

theorem leavesLink_send (level : Bool) (m : ServiceId × CharId × List Byte) :
    (⟨level, .send m.1 m.2.1 m.2.2⟩ : Stimulus).LeavesLink := ⟨rfl, fun ls => by simp [linkAfter]⟩

theorem leavesGate_tick (level : Bool) : (⟨level, .evTick⟩ : Stimulus).LeavesGate :=
  ⟨rfl, by simp, fun h => nomatch h⟩

theorem leavesGate_send (level : Bool) (m : ServiceId × CharId × List Byte) :
    (⟨level, .send m.1 m.2.1 m.2.2⟩ : Stimulus).LeavesGate :=
  ⟨rfl, by simp, fun h => by simp [isTeardown] at h⟩

theorem forall_mem_tickRun {P : Stimulus → Prop} (level : Bool) (k : Nat) (h : P ⟨level, .evTick⟩) :
    ∀ x ∈ tickRun level k, P x := fun _ hx => List.eq_of_mem_replicate hx ▸ h

theorem tickCount_append (xs ys : List Stimulus) : tickCount (xs ++ ys) = tickCount xs + tickCount ys :=
  List.countP_append

end Sys2Proof.Machine

namespace Sys2Proof.Proofs
open Sys2Proof.Machine

/-- Settles O48: behind the first `SEND` the gate is shut, and a run with fewer ticks than its timer keeps it so. -/
theorem busyGateAdmitsOneWrite : Obligations.BusyGateAdmitsOneWrite := by
  intro s service characteristic payload xs hls hbusy hx hticks
  let m := (service, characteristic, payload)
  have hcnt : (s.afterSend m).session.busyCnt.toNat = 5000 - tickCount xs + tickCount xs := by
    rw [s.afterSend_busyCnt m]
    omega
  obtain ⟨t, ht, hb, hc, hw⟩ := runInputs_gate_shut xs _ _ hx (s.afterSend_busy m) hcnt (Nat.sub_pos_of_lt hticks)
  exact ⟨t, (runInputs_send s m xs hls hbusy).trans ht, hb, hc, hw.trans (s.afterSend_writes m)⟩

/-- Settles O49: the 5000th tick runs the timer out, and behind an open gate a `SEND` in `CONNECTED` is written. -/
theorem busyTimeoutReopensTheGate : Obligations.BusyTimeoutReopensTheGate := by
  intro s first second xs level hls hbusy hx hticks
  have hcnt : (s.afterSend first).session.busyCnt.toNat = 1 + tickCount xs := by
    rw [s.afterSend_busyCnt first, hticks]
  obtain ⟨t, ht, hb, hc, -⟩ := runInputs_gate_expires xs level _ hx (s.afterSend_busy first) hcnt
  refine ⟨t, (runInputs_send s first _ hls hbusy).trans ht, hb, hc, fun hlst => ?_⟩
  exact ⟨_, runInputs_send t second [] hlst hb, t.afterSend_requests second, t.afterSend_busy second⟩

/-- Settles O50: B meets a shut gate, whatever ticks have passed; the completion opens it for C. -/
theorem onlyAAndCReachTheTransport : Obligations.OnlyAAndCReachTheTransport := by
  intro s a b c k hls hbusy hk
  let shut : List Stimulus := tickRun true k ++ [⟨true, .send b.1 b.2.1 b.2.2⟩]
  have hshut {P : Stimulus → Prop} (htick : P ⟨true, .evTick⟩) (hsend : P ⟨true, .send b.1 b.2.1 b.2.2⟩) :
      ∀ x ∈ shut, P x :=
    List.forall_mem_append.2 ⟨forall_mem_tickRun true k htick, List.forall_mem_singleton.2 hsend⟩
  have hticks : tickCount shut = k := by
    rw [tickCount_append, tickCount_tickRun]
    rfl
  have hcnt : (s.afterSend a).session.busyCnt.toNat = 5000 - k + tickCount shut := by
    rw [s.afterSend_busyCnt a, hticks]
    omega
  obtain ⟨t, ht, -, -, hw⟩ := runInputs_gate_shut shut _ _ (hshut (leavesGate_tick true) (leavesGate_send true b))
    (s.afterSend_busy a) hcnt (Nat.sub_pos_of_lt hk)
  have hlst := runInputs_ls shut _ t (hshut (leavesLink_tick true) (leavesLink_send true b)) ht
  obtain ⟨u, hu, hreq, hsession⟩ := runInputs_writeDone_send t c (hlst.trans hls)
  refine ⟨u.afterSend c, ?_, ?_, u.afterSend_busy c, u.afterSend_busyCnt c, ?_⟩
  · rw [List.cons_append, runInputs_send s a _ hls hbusy, ← hu, ← runInputs_append_of_next _ ht, List.append_assoc]
    rfl
  · rw [u.afterSend_writes c, hreq, hw, s.afterSend_writes a, List.append_assoc]
    rfl
  · rw [u.afterSend_ls c, hsession]
    exact hlst.trans hls

/-- Settles O51: the timer runs out on the 5000th tick, so C is written; the late completion opens the gate for D. -/
theorem lateCompletionReleasesTheNewerGate : Obligations.LateCompletionReleasesTheNewerGate := by
  intro s a c d hls hbusy
  have hlast : tickRun true 5000 = tickRun true 4999 ++ [⟨true, .evTick⟩] := List.replicate_succ'
  have hcnt : (s.afterSend a).session.busyCnt.toNat = 1 + tickCount (tickRun true 4999) := by
    rw [s.afterSend_busyCnt a, tickCount_tickRun]
  obtain ⟨t, ht, hb, -, hw⟩ := runInputs_gate_expires (tickRun true 4999) true _
    (forall_mem_tickRun true 4999 (leavesGate_tick true)) (s.afterSend_busy a) hcnt
  rw [← hlast] at ht
  have hlst := runInputs_ls _ _ t (forall_mem_tickRun true 5000 (leavesLink_tick true)) ht
  obtain ⟨u, hu, hreq, -⟩ := runInputs_writeDone_send (t.afterSend c) d (hlst.trans hls)
  refine ⟨u.afterSend d, ?_, ?_⟩
  · rw [List.cons_append, runInputs_send s a _ hls hbusy, runInputs_append_of_next _ ht,
      runInputs_send t c _ (hlst.trans hls) hb, hu]
  · rw [u.afterSend_writes d, hreq, t.afterSend_writes c, hw, s.afterSend_writes a]
    simp only [List.append_assoc]
    rfl

end Sys2Proof.Proofs
end

section
/-! SUPPORT and the statements about runs that speak of the watchdog and of a reconnect: what an input does to the
watchdog, when it is fed or off (R64, R141), its intervals over ticks alone (R181, R210), and the gate across a teardown
(R208). -/

namespace Sys2Proof.Machine

/-! ## What one input does to the watchdog -/

section
variable {p : Params} {level : Bool} {s : Session} {i : Instr} {r : Reaction}

/-- Everything an input can do to the watchdog: cancel it outside `CONNECTED`, arm it in `CONNECTED`, count, or leave it
alone. -/
theorem reaction_watchdog_cases (hr : reaction p level s i = some r) :
    (isTeardown i = true ∧ r.session.ls ≠ .connected ∧ r.session.wdCnt = 0) ∨
    ((i = .evConnect ∨ isMessage i = true ∧ s.ls = .connected) ∧
      r.session.ls = .connected ∧ r.session.wdCnt = wdLoad p) ∨
    (i = .evTick ∧ r.session.ls = s.ls ∧
      if s.wdCnt.toNat = 1 then r.session.wdCnt = wdLoad p else r.session.wdCnt.toNat = s.wdCnt.toNat - 1) ∨
    (i ≠ .evTick ∧ (isMessage i = true → s.ls ≠ .connected) ∧ (r.session.ls = .connected ↔ s.ls = .connected) ∧
      r.session.wdCnt = s.wdCnt) := by
  cases i <;> simp only [reaction, Option.some.injEq, reduceCtorEq] at hr <;> subst hr
  case scan =>
    cases h : s.handleValid
    case true =>
      rw [onScan_of_handle p s h]
      exact .inl ⟨rfl, by simp, s.teardown_wdCnt p⟩
    case false =>
      rw [onScan_of_no_handle p s h]
      exact .inr (.inr (.inr ⟨by simp, by simp [isMessage], by simp [s.ls_ne_connected_of_no_handle h], rfl⟩))
  case disconnect | sreset => exact .inl ⟨rfl, by simp [onDisconnect, onSreset], s.teardown_wdCnt p⟩
  case connect =>
    rw [onConnectCommand_session]
    exact .inr (.inr (.inr ⟨by simp, by simp [isMessage], .rfl, rfl⟩))
  case send service characteristic payload =>
    refine .inr (.inr (.inr ⟨by simp, by simp [isMessage], by rw [onSend_ls], ?_⟩))
    unfold onSend
    split <;> rfl
  case evConnect =>
    cases h : s.handleValid
    case true => rw [onEvConnect_of_handle p s h]; exact .inr (.inl ⟨.inl rfl, rfl, rfl⟩)
    case false =>
      rw [onEvConnect_of_no_handle p s h]
      exact .inr (.inr (.inr ⟨by simp, by simp [isMessage], .rfl, rfl⟩))
  case evMessage rawBytes =>
    by_cases h : s.ls = .connected
    · rw [onEvMessage_of_connected p rawBytes s h]
      exact .inr (.inl ⟨.inr ⟨rfl, h⟩, (storeMessage_ls p rawBytes s).trans h, rfl⟩)
    · rw [onEvMessage_of_not_connected p rawBytes s h]
      exact .inr (.inr (.inr ⟨by simp, fun _ => h, .rfl, rfl⟩))
  case evTick =>
    refine .inr (.inr (.inl ⟨rfl, onEvTick_ls p s, ?_⟩))
    obtain ⟨count, out, htick, hwatchdog⟩ := onEvTick_eq p s
    rw [htick]
    split at hwatchdog
    next hone => rw [if_pos hone]; exact hwatchdog.1
    next hone => rw [if_neg hone]; exact hwatchdog.1
  all_goals exact .inr (.inr (.inr ⟨by simp, by simp [isMessage], .rfl, rfl⟩))

/-- Outside `CONNECTED`, the watchdog off: where a teardown leaves the session (R64). -/
def Session.Unarmed (s : Session) : Prop := s.ls ≠ .connected ∧ s.wdCnt = 0

/-- Only `EV_CONNECT` leads out of it. -/
theorem reaction_unarmed (hr : reaction p level s i = some r) (hi : i ≠ .evConnect) (h : s.Unarmed) :
    r.session.Unarmed := by
  obtain ⟨hls, hcnt⟩ := h
  obtain ⟨-, hls', hcnt'⟩ | ⟨harm, -⟩ | ⟨-, hls', htick⟩ | ⟨-, -, hls', hcnt'⟩ := reaction_watchdog_cases hr
  · exact ⟨hls', hcnt'⟩
  · obtain rfl | ⟨-, hconnected⟩ := harm
    · exact absurd rfl hi
    · exact absurd hconnected hls
  · rw [hcnt] at htick
    exact ⟨hls' ▸ hls, (toNat_eq_zero_iff _).1 htick⟩
  · exact ⟨fun hc => hls (hls'.1 hc), hcnt'.trans hcnt⟩

/-- The ticks since the last message, after one more input (R141). -/
def ticksSince (i : Instr) (n : Nat) : Nat := if i = .evTick then n + 1 else if isMessage i then 0 else n

/-- With `n` ticks since the last message the watchdog has counted at most those, or it is off. -/
def Session.Fed (p : Params) (n : Nat) (s : Session) : Prop :=
  s.Unarmed ∨ (s.ls = .connected ∧ Config.wdTicks p.family ≤ s.wdCnt.toNat + n)

theorem reaction_fed (n : Nat) (hr : reaction p level s i = some r) (h : s.Fed p n) :
    r.session.Fed p (ticksSince i n) := by
  obtain ⟨-, hls', hcnt'⟩ | ⟨-, hls', hcnt'⟩ | ⟨rfl, hls', htick⟩ | ⟨hi, hmessage, hls', hcnt'⟩ :=
    reaction_watchdog_cases hr
  · exact .inl ⟨hls', hcnt'⟩
  · refine .inr ⟨hls', ?_⟩
    rw [hcnt', wdLoad_toNat]
    exact Nat.le_add_right _ _
  · obtain hoff | ⟨hls, hcnt⟩ := h
    · exact .inl (reaction_unarmed hr (by simp) hoff)
    · refine .inr ⟨hls'.trans hls, ?_⟩
      rw [ticksSince, if_pos rfl]
      split at htick
      next => rw [htick, wdLoad_toNat]; omega
      next => omega
  · obtain ⟨hls, hcnt⟩ | ⟨hls, hcnt⟩ := h
    · exact .inl ⟨fun hc => hls (hls'.1 hc), hcnt'.trans hcnt⟩
    · have hsince : ticksSince i n = n := by
        rw [ticksSince, if_neg hi, if_neg fun hm => hmessage hm hls]
      rw [hsince]
      exact .inr ⟨hls'.2 hls, hcnt' ▸ hcnt⟩

/-- A fed watchdog's count is not 1 when a tick comes. -/
theorem Session.Fed.wdCnt_ne_one {n : Nat} (h : s.Fed p n) (hn : n + 1 < Config.wdTicks p.family) : s.wdCnt ≠ 1 := by
  intro hone
  obtain ⟨-, hcnt⟩ | ⟨-, hcnt⟩ := h
  · rw [hcnt] at hone
    cases hone
  · rw [hone] at hcnt
    simp at hcnt
    omega

end

/-! ## The watchdog over a run -/

theorem fedWithin_cons (limit n : Nat) (x : Stimulus) (xs : List Stimulus) (h : FedWithin limit n (x :: xs)) :
    FedWithin limit (ticksSince x.input n) xs ∧ (x.input = .evTick → n + 1 < limit) := by
  rw [FedWithin] at h
  unfold ticksSince
  split at h
  next htick => exact ⟨by rw [if_pos htick]; exact h.2, fun _ => h.1⟩
  next htick =>
    rw [if_neg htick]
    split at h
    next hm => exact ⟨by rw [if_pos hm]; exact h, fun e => absurd e htick⟩
    next hm => exact ⟨by rw [if_neg hm]; exact h, fun e => absurd e htick⟩

/-- What a run with a fed watchdog keeps. -/
def FedRun (errors : List Request) (xs : List Stimulus) (s : State) : Prop :=
  (∀ x ∈ xs, x.input.isInput = true) ∧
    (∃ n, FedWithin (Config.wdTicks Config.params.family) n xs ∧ s.session.Fed Config.params n) ∧
    linkErrorsOf s.requests = errors

theorem FedRun.next {errors : List Request} (x : Stimulus) (xs : List Stimulus) (s : State)
    (h : FedRun errors (x :: xs) s) :
    ∃ r, reaction Config.params x.level s.session x.input = some r ∧
      FedRun errors xs ({ s with tConnected := x.level }.commit r) := by
  obtain ⟨hx, ⟨n, hwithin, hfed⟩, herrors⟩ := h
  obtain ⟨hi, hxs⟩ := List.forall_mem_cons.1 hx
  obtain ⟨r, hr⟩ := reaction_isSome Config.params x.level s.session x.input hi
  obtain ⟨hwithin', htick⟩ := fedWithin_cons _ n x xs hwithin
  refine ⟨r, hr, hxs, ⟨_, hwithin', reaction_fed n hr hfed⟩, ?_⟩
  rw [State.commit_requests, linkErrorsOf_append,
    linkErrorsOf_reaction hr fun ht => hfed.wdCnt_ne_one (htick ht), List.append_nil]
  exact herrors

/-- What a run without `EV_CONNECT` keeps after a teardown (R64). -/
def UnarmedRun (errors : List Request) (xs : List Stimulus) (s : State) : Prop :=
  (∀ x ∈ xs, x.input.isInput = true ∧ x.input ≠ .evConnect) ∧ s.session.Unarmed ∧ linkErrorsOf s.requests = errors

theorem UnarmedRun.next {errors : List Request} (x : Stimulus) (xs : List Stimulus) (s : State)
    (h : UnarmedRun errors (x :: xs) s) :
    ∃ r, reaction Config.params x.level s.session x.input = some r ∧
      UnarmedRun errors xs ({ s with tConnected := x.level }.commit r) := by
  obtain ⟨hx, hoff, herrors⟩ := h
  obtain ⟨⟨hi, hne⟩, hxs⟩ := List.forall_mem_cons.1 hx
  obtain ⟨r, hr⟩ := reaction_isSome Config.params x.level s.session x.input hi
  refine ⟨r, hr, hxs, reaction_unarmed hr hne hoff, ?_⟩
  have hcnt : s.session.wdCnt ≠ 1 := by
    rw [hoff.2]
    decide
  rw [State.commit_requests, linkErrorsOf_append, linkErrorsOf_reaction hr fun _ => hcnt, List.append_nil]
  exact herrors

/-! ## The watchdog over ticks alone -/

/-- The same link state and the watchdog's flag as it was: what no tick changes. -/
def State.SameLink (s t : State) : Prop := t.session.ls = s.session.ls ∧ t.session.wdActive = s.session.wdActive

theorem State.SameLink.trans {s t u : State} (h₁ : s.SameLink t) (h₂ : t.SameLink u) : s.SameLink u :=
  ⟨h₂.1.trans h₁.1, h₂.2.trans h₁.2⟩

theorem runInputs_tick (level : Bool) (s : State) : ∃ t : State,
    (∀ xs, runInputs (⟨level, .evTick⟩ :: xs) s = runInputs xs t) ∧ s.SameLink t ∧
      if s.session.wdCnt.toNat = 1 then
        t.session.wdCnt = wdLoad Config.params ∧ t.requests = s.requests ++ [.linkError Config.reasonDataStopped]
      else t.session.wdCnt.toNat = s.session.wdCnt.toNat - 1 ∧ t.requests = s.requests := by
  obtain ⟨count, out, htick, hwatchdog⟩ := onEvTick_eq Config.params s.session
  have hr : reaction Config.params level s.session .evTick = some _ := congrArg some htick
  refine ⟨_, fun xs => runInputs_cons ⟨level, .evTick⟩ xs s _ hr, ⟨s.session.tickBusy_ls, s.session.tickBusy_wdActive⟩,
    ?_⟩
  split at hwatchdog
  next hone =>
    rw [if_pos hone]
    exact ⟨hwatchdog.1, congrArg _ hwatchdog.2⟩
  next hone =>
    rw [if_neg hone]
    exact ⟨hwatchdog.1, by simp [hwatchdog.2]⟩

/-- Fewer ticks than the count are counted and report nothing. -/
theorem runInputs_ticks_counted (level : Bool) (j : Nat) (s : State) (h : j < s.session.wdCnt.toNat) :
    ∃ t, runInputs (tickRun level j) s = .next t ∧ s.SameLink t ∧
      t.session.wdCnt.toNat = s.session.wdCnt.toNat - j ∧ t.requests = s.requests := by
  induction j generalizing s with
  | zero => exact ⟨s, rfl, ⟨rfl, rfl⟩, rfl, rfl⟩
  | succ j ih =>
    obtain ⟨t, ht, hlink, hwatchdog⟩ := runInputs_tick level s
    rw [if_neg (by omega)] at hwatchdog
    obtain ⟨hcnt, hrequests⟩ := hwatchdog
    obtain ⟨u, hu, hlink', hcnt', hrequests'⟩ := ih t (by omega)
    exact ⟨u, (ht _).trans hu, hlink.trans hlink', by omega, hrequests'.trans hrequests⟩

/-- One whole interval reports one link error and starts the next (R141, R181). -/
theorem runInputs_interval (level : Bool) (s : State) (h : s.session.wdCnt = wdLoad Config.params) :
    ∃ t, runInputs (tickRun level (Config.wdTicks Config.params.family)) s = .next t ∧ s.SameLink t ∧
      t.session.wdCnt = wdLoad Config.params ∧ t.requests = s.requests ++ [.linkError Config.reasonDataStopped] := by
  have hpos := wdTicks_pos Config.params.family
  have hload : s.session.wdCnt.toNat = Config.wdTicks Config.params.family := h ▸ wdLoad_toNat Config.params
  obtain ⟨m, hm⟩ : ∃ m, Config.wdTicks Config.params.family = m + 1 := Nat.exists_eq_add_one.2 hpos
  obtain ⟨t, ht, hlink, hcnt, hrequests⟩ := runInputs_ticks_counted level m s (by omega)
  obtain ⟨u, hu, hlink', hwatchdog⟩ := runInputs_tick level t
  rw [if_pos (by omega), hrequests] at hwatchdog
  refine ⟨u, ?_, hlink.trans hlink', hwatchdog⟩
  have hlast : tickRun level (m + 1) = tickRun level m ++ [⟨level, .evTick⟩] := List.replicate_succ'
  rw [hm, hlast, runInputs_append_of_next _ ht]
  exact hu []

theorem tickRun_add (level : Bool) (m n : Nat) : tickRun level (m + n) = tickRun level m ++ tickRun level n :=
  (List.replicate_append_replicate ..).symm

theorem runInputs_intervals (level : Bool) (k : Nat) (s : State) (h : s.session.wdCnt = wdLoad Config.params) :
    ∃ t, runInputs (tickRun level (k * Config.wdTicks Config.params.family)) s = .next t ∧ s.SameLink t ∧
      t.session.wdCnt = wdLoad Config.params ∧
      t.requests = s.requests ++ List.replicate k (.linkError Config.reasonDataStopped) := by
  induction k generalizing s with
  | zero => exact ⟨s, by rw [Nat.zero_mul]; rfl, ⟨rfl, rfl⟩, h, (List.append_nil _).symm⟩
  | succ k ih =>
    obtain ⟨t, ht, hlink, hcnt, hrequests⟩ := runInputs_interval level s h
    obtain ⟨u, hu, hlink', hcnt', hrequests'⟩ := ih t hcnt
    refine ⟨u, ?_, hlink.trans hlink', hcnt', ?_⟩
    · rw [Nat.succ_mul, Nat.add_comm, tickRun_add, runInputs_append_of_next _ ht, hu]
    · rw [hrequests', hrequests, List.append_assoc, List.replicate_succ]
      rfl

/-! ## A teardown and a reconnect -/

/-- `DISCONNECT` and `SRESET` are one reaction but for the link state they end in (R133, R134). -/
theorem reaction_of_disconnect_or_sreset (p : Params) (level : Bool) (s : Session) (i : Instr)
    (hi : i = .disconnect ∨ i = .sreset) :
    ∃ r, reaction p level s i = some r ∧ (r.session.ls = .idle ∨ r.session.ls = .disconnected) ∧
      r.session.wdCnt = 0 ∧ r.session.busy = (s.teardown p).busy ∧ r.session.busyCnt = (s.teardown p).busyCnt ∧
      r.out = s.teardownRequests := by
  obtain rfl | rfl := hi
  · exact ⟨_, rfl, .inr rfl, s.teardown_wdCnt p, rfl, rfl, rfl⟩
  · exact ⟨_, rfl, .inl rfl, s.teardown_wdCnt p, rfl, rfl, rfl⟩

/-- From a session without a handle: discovery, connection request, subscription; the gate is not written (R208). -/
theorem runInputs_connect (level : Bool) (id : PeripheralId) (s : State) (h : s.session.handleValid = false) :
    ∃ t : State, runInputs [⟨level, .scan⟩, ⟨level, .connect id⟩, ⟨level, .evConnect⟩] s = .next t ∧
      t.session.ls = .connected ∧
      t.requests = s.requests ++ [.discover, .connect id, .subscribe Config.params.rxService Config.params.rxChar] ∧
      t.session.busy = s.session.busy ∧ t.session.busyCnt = s.session.busyCnt := by
  have hscan : reaction Config.params level s.session .scan = some _ := congrArg some (onScan_of_no_handle _ _ h)
  rw [runInputs_cons ⟨level, .scan⟩ _ s _ hscan,
    runInputs_cons ⟨level, .connect id⟩ _ _ _ (congrArg some (onConnectCommand_of_handle id _ rfl)),
    runInputs_singleton ⟨level, .evConnect⟩ _ _ (congrArg some (onEvConnect_of_handle _ _ rfl))]
  refine ⟨_, rfl, rfl, ?_, rfl, rfl⟩
  simp only [State.commit_requests, List.append_assoc, List.cons_append, List.nil_append]

end Sys2Proof.Machine

namespace Sys2Proof.Proofs
open Sys2Proof.Machine

/-- Settles O53: the ticks since the last message bound what the watchdog has counted, so it never stands at 1 when a
tick comes. -/
theorem fedWatchdogNeverFires : Obligations.FedWatchdogNeverFires := by
  intro s xs hls hcnt hx hwithin
  have hfed : s.session.Fed Config.params 0 := .inr ⟨hls, by rw [hcnt, wdLoad_toNat]; exact Nat.le_refl _⟩
  obtain ⟨t, ht, -, -, herrors⟩ := runInputs_keeps (FedRun _) FedRun.next xs s ⟨hx, ⟨0, hwithin, hfed⟩, rfl⟩
  exact ⟨t, ht, herrors⟩

/-- Settles O54: by induction over the whole intervals, then the ticks of the last one. -/
theorem unfedWatchdogFiresEveryInterval : Obligations.UnfedWatchdogFiresEveryInterval := by
  intro s level k j hcnt hj
  obtain ⟨t, ht, hlink, hcnt, hrequests⟩ := runInputs_intervals level k s hcnt
  have hload : t.session.wdCnt.toNat = Config.wdTicks Config.params.family := hcnt ▸ wdLoad_toNat Config.params
  obtain ⟨u, hu, hlink', hcnt', hrequests'⟩ := runInputs_ticks_counted level j t (hload ▸ hj)
  obtain ⟨hls, hactive⟩ := hlink.trans hlink'
  refine ⟨u, ?_, hrequests'.trans hrequests, hload ▸ hcnt', hls, hactive⟩
  rw [tickRun_add, runInputs_append_of_next _ ht, hu]

/-- Settles O55: the teardown leaves the session unarmed, and no input but `EV_CONNECT` arms it. -/
theorem noLinkErrorAfterTeardown : Obligations.NoLinkErrorAfterTeardown := by
  intro s level i xs hi hx
  obtain ⟨r, hr, hls, hcnt, -, -, -⟩ := reaction_of_disconnect_or_sreset Config.params level s.session i hi
  have hoff : r.session.Unarmed := ⟨by rintro hc; simp [hc] at hls, hcnt⟩
  have hne : i ≠ .evTick := by rintro rfl; simp at hi
  obtain ⟨t, ht, -, ⟨-, hcnt⟩, herrors⟩ :=
    runInputs_keeps (UnarmedRun _) UnarmedRun.next xs ({ s with tConnected := level }.commit r) ⟨hx, hoff, rfl⟩
  refine ⟨t, (runInputs_cons ⟨level, i⟩ xs s r hr).trans ht, herrors.trans ?_, hcnt⟩
  rw [State.commit_requests, linkErrorsOf_append, linkErrorsOf_reaction hr fun e => absurd e hne, List.append_nil]

/-- Settles O52: the teardown decides about the gate, and the three inputs after it leave the gate alone. -/
theorem gateAcrossAReconnect : Obligations.GateAcrossAReconnect := by
  intro s level id i hls hi
  obtain ⟨r, hr, hlsr, -, hbusy, hcnt, hout⟩ := reaction_of_disconnect_or_sreset Config.params level s.session i hi
  have hhandle : r.session.handleValid = false := by
    obtain h | h := hlsr <;> simp [Session.handleValid, h]
  have hteardown : s.session.teardownRequests = [.teardown] := by simp [s.session.teardownRequests_eq, hls]
  obtain ⟨t, ht, hlst, hrequests, hbusyt, hcntt⟩ :=
    runInputs_connect level id ({ s with tConnected := level }.commit r) hhandle
  refine ⟨t, (runInputs_cons ⟨level, i⟩ _ s r hr).trans ht, hlst, ?_, ?_⟩
  · rw [hrequests, State.commit_requests, hout, hteardown, List.append_assoc]
    rfl
  · obtain ⟨hmode, hb, hc⟩ | ⟨hmode, hb, hc⟩ := s.session.teardown_gate Config.params <;> rw [hmode]
    · exact ⟨hbusyt.trans (hbusy.trans hb), hcntt.trans (hcnt.trans hc)⟩
    · exact ⟨hbusyt.trans (hbusy.trans hb), hcntt.trans (hcnt.trans hc)⟩

end Sys2Proof.Proofs
end

section
/-! SUPPORT and the statement that IDLE and DISCONNECTED look alike (R40): alike sessions react alike to every input, so
alike machines answer every run alike. -/

namespace Sys2Proof.Machine

/-! ## Alike sessions -/

/-- The reaction of the same session in another link state: the same outputs, and the two sessions differ in the link
state at most, and there in which of IDLE and DISCONNECTED it is (R40). -/
def Reaction.Alike (r q : Reaction) : Prop := q.out = r.out ∧ q.res = r.res ∧ r.session.Alike q.session

theorem Session.Alike.of_eq {a b : Session} (h : a = b) : a.Alike b := h ▸ ⟨.inl rfl, rfl⟩

theorem Reaction.Alike.refl (r : Reaction) : r.Alike r := ⟨rfl, rfl, .of_eq rfl⟩

/-- Alike sessions are equal, or neither has a handle. -/
theorem Session.Alike.cases {a b : Session} (h : a.Alike b) :
    a = b ∨ (a.handleValid = false ∧ b.handleValid = false) := by
  obtain ⟨hls | ⟨ha, hb⟩, heq⟩ := h
  · rw [← hls] at heq
    exact .inl heq
  · right
    constructor
    · obtain ha | ha := ha <;> simp [Session.handleValid, ha]
    · obtain hb | hb := hb <;> simp [Session.handleValid, hb]

theorem Session.eligible_of_no_handle (s : Session) (level : Bool) (h : s.handleValid = false) :
    s.eligible level = false :=
  (s.eligible_eq_false_iff level).2 (.inl (s.ls_ne_connected_of_no_handle h))

theorem Session.linkUp_of_no_handle (s : Session) (level : Bool) (h : s.handleValid = false) :
    s.linkUp level = false := by
  simp [Session.linkUp, s.ls_ne_connected_of_no_handle h]

/-- The session in another link state. -/
def Session.withLs (s : Session) (ls : LinkState) : Session := { s with ls := ls }

/-- The reaction with its session in another link state. -/
def Reaction.withLs (r : Reaction) (ls : LinkState) : Reaction := { r with session := r.session.withLs ls }

theorem Session.ls_of_commutes (f : Session → Session)
    (hf : ∀ (s : Session) (ls : LinkState), f (s.withLs ls) = (f s).withLs ls) (s : Session) : (f s).ls = s.ls :=
  calc (f s).ls = (f (s.withLs s.ls)).ls := rfl
    _ = ((f s).withLs s.ls).ls := by rw [hf]
    _ = s.ls := rfl

section
variable {a b : Session} (h : a.Alike b) (f : Session → Session)
  (hf : ∀ (s : Session) (ls : LinkState), f (s.withLs ls) = (f s).withLs ls)
include h hf

/-- What neither reads nor writes `ls` keeps sessions alike. -/
theorem Session.Alike.map : (f a).Alike (f b) := by
  obtain ⟨hls, heq⟩ := h
  have hlsa := Session.ls_of_commutes f hf a
  have hlsb := Session.ls_of_commutes f hf b
  refine ⟨by rwa [hlsa, hlsb], ?_⟩
  calc (f a).withLs (f b).ls = (f a).withLs b.ls := by rw [hlsb]
    _ = f (a.withLs b.ls) := (hf a b.ls).symm
    _ = f b := congrArg f heq

/-- And with `ls` written after it, it makes alike sessions equal. -/
theorem Session.Alike.withLs_eq (ls : LinkState) : (f a).withLs ls = (f b).withLs ls :=
  calc (f a).withLs ls = ((f a).withLs b.ls).withLs ls := rfl
    _ = (f (a.withLs b.ls)).withLs ls := by rw [hf]
    _ = (f b).withLs ls := congrArg (fun s => (f s).withLs ls) h.2

end

theorem Session.teardown_withLs (p : Params) (s : Session) (ls : LinkState) :
    (s.withLs ls).teardown p = (s.teardown p).withLs ls := by
  unfold Session.teardown
  split <;> rfl

theorem Session.tickBusy_withLs (s : Session) (ls : LinkState) : (s.withLs ls).tickBusy = s.tickBusy.withLs ls := by
  simp only [Session.tickBusy, apply_ite (Session.withLs · ls)]
  rfl

theorem Session.tickWatchdog_withLs (p : Params) (s : Session) (ls : LinkState) :
    (s.withLs ls).tickWatchdog p = (s.tickWatchdog p).withLs ls := by
  simp only [Session.tickWatchdog, apply_ite (Reaction.withLs · ls)]
  rfl

/-- No timer reads or writes `ls`. -/
theorem onEvTick_withLs (p : Params) (s : Session) (ls : LinkState) :
    onEvTick p (s.withLs ls) = (onEvTick p s).withLs ls := by
  rw [onEvTick, s.tickBusy_withLs ls, Session.tickWatchdog_withLs, onEvTick]

/-- Alike sessions react alike to every input (R40). -/
theorem reaction_of_alike (p : Params) (level : Bool) (a b : Session) (i : Instr) (r q : Reaction) (h : a.Alike b)
    (hr : reaction p level a i = some r) (hq : reaction p level b i = some q) : r.Alike q := by
  obtain rfl | ⟨ha, hb⟩ := h.cases
  · cases Option.some.inj (hr.symm.trans hq)
    exact .refl r
  have hrequests : b.teardownRequests = a.teardownRequests := by simp [Session.teardownRequests, ha, hb]
  cases i <;> simp only [reaction, Option.some.injEq, reduceCtorEq] at hr hq <;> subst hr hq
  case crcCompute | encByteWrite | encWordWrite | encRaw => exact ⟨rfl, rfl, h⟩
  case scan =>
    rw [onScan_of_no_handle p a ha, onScan_of_no_handle p b hb]
    exact ⟨rfl, rfl, .of_eq (h.withLs_eq id (fun _ _ => rfl) .scanning)⟩
  case connect id =>
    rw [onConnectCommand_of_no_handle id a ha, onConnectCommand_of_no_handle id b hb]
    exact ⟨rfl, rfl, h⟩
  case disconnect => exact ⟨hrequests, rfl, .of_eq (h.withLs_eq _ (Session.teardown_withLs p) .disconnected)⟩
  case sreset => exact ⟨hrequests, rfl, .of_eq (h.withLs_eq _ (Session.teardown_withLs p) .idle)⟩
  case isConnected =>
    rw [onIsConnected, onIsConnected, a.linkUp_of_no_handle level ha, b.linkUp_of_no_handle level hb]
    exact ⟨rfl, rfl, h⟩
  case send service characteristic payload =>
    rw [onSend_of_not_eligible _ _ _ _ _ a (a.eligible_of_no_handle level ha),
      onSend_of_not_eligible _ _ _ _ _ b (b.eligible_of_no_handle level hb)]
    exact ⟨rfl, rfl, h⟩
  case evConnect =>
    rw [onEvConnect_of_no_handle p a ha, onEvConnect_of_no_handle p b hb]
    exact ⟨rfl, rfl, h⟩
  case evWriteDone => exact ⟨rfl, rfl, h.map _ fun _ _ => rfl⟩
  case evMessage rawBytes =>
    rw [onEvMessage_of_not_connected p rawBytes a (a.ls_ne_connected_of_no_handle ha),
      onEvMessage_of_not_connected p rawBytes b (b.ls_ne_connected_of_no_handle hb)]
    exact ⟨rfl, rfl, h⟩
  case evTick =>
    have htick : onEvTick p b = (onEvTick p a).withLs b.ls :=
      (congrArg (onEvTick p) h.2).symm.trans (onEvTick_withLs p a b.ls)
    have hsession (s : Session) (ls : LinkState) := congrArg Reaction.session (onEvTick_withLs p s ls)
    exact ⟨by rw [htick]; rfl, by rw [htick]; rfl, h.map (fun s => (onEvTick p s).session) hsession⟩

/-- The session of a machine exchanged for another. -/
def State.withSession (s : State) (session : Session) : State := { s with session := session }

theorem runInputs_of_alike (xs : List Stimulus) (s s' : State) (b : Session)
    (hx : ∀ x ∈ xs, x.input.isInput = true) (h : s.session.Alike b) (hrun : runInputs xs s = .next s') :
    ∃ b', runInputs xs (s.withSession b) = .next (s'.withSession b') ∧ s'.session.Alike b' := by
  induction xs generalizing s b with
  | nil => cases hrun; exact ⟨b, rfl, h⟩
  | cons x xs ih =>
    obtain ⟨hi, hxs⟩ := List.forall_mem_cons.1 hx
    obtain ⟨r, hr⟩ := reaction_isSome Config.params x.level s.session x.input hi
    obtain ⟨q, hq⟩ := reaction_isSome Config.params x.level b x.input hi
    obtain ⟨hout, hres, hsession⟩ := reaction_of_alike _ _ _ _ _ r q h hr hq
    rw [runInputs_cons x xs s r hr] at hrun
    have hcommit : ({ s.withSession b with tConnected := x.level } : State).commit q =
        ({ s with tConnected := x.level }.commit r).withSession q.session := by
      simp only [State.commit, State.withSession, hout, hres]
    rw [runInputs_cons x xs (s.withSession b) q hq, hcommit]
    exact ih _ q.session hxs hsession hrun

end Sys2Proof.Machine

namespace Sys2Proof.Proofs
open Sys2Proof.Machine

/-- Settles O47: alike sessions react alike to every input, so alike machines answer a run alike, by induction on it. -/
theorem idleAndDisconnectedLookAlike : Obligations.IdleAndDisconnectedLookAlike := by
  intro xs s t s' hx h ht hrun
  obtain ⟨b', hrun', h'⟩ := runInputs_of_alike xs s s' t.session hx h hrun
  rw [ht]
  exact ⟨_, hrun', h', rfl⟩

end Sys2Proof.Proofs
end
